-- ==== Sys2Proof/Word.lean ====
section
/-!
DEFINITION. The widths the spec names (spec/00_scope.md R7, R9, R10), the three agents (R12) and the
sixteen operation names (spec/30_encoding.md R63).
-/

namespace Sys2Proof

/-- An unsigned 8-bit amplitude sample, index or duty part (R7, R10). -/
abbrev Byte := BitVec 8

/-- An unsigned 16-bit timer, delay or read value. -/
abbrev Word16 := BitVec 16

/-- The 24-bit operation word (R60). -/
abbrev OpWord := BitVec 24

/-- Who takes a step (R12). -/
inductive Agent where
  | timer
  | sequencer
  | host
  deriving DecidableEq, Repr

/-- The names of the sixteen operation codes (R63). -/
inductive Opcode where
  | nop
  | wrIdx
  | wrTmr
  | wrEn
  | wrTie
  | wrGie
  | wrOe
  | wrDuty
  | wrDutyl
  | rdIdx
  | rdTmr
  | rdDuty
  | rdStatus
  | dly
  | tick
  | vector
  deriving DecidableEq, Repr

/-- The five operand forms of an operation word (R62). -/
inductive Form where
  | none
  | b1
  | u8
  | u10
  | u16
  deriving DecidableEq, Repr

end Sys2Proof
end

