-- ==== Sys2Proof/Syntax.lean ====
section
/-!
DEFINITION. The instructions: one constructor for each row of spec/opcode_table.json (R63), with the operands
of its form (R62).
-/

namespace Sys2Proof

/-- An operation: the fourteen host words and the two event words (R63). -/
inductive Instr where
  /-- NOP (R92). -/
  | nop
  /-- WR_IDX u8 (R93). -/
  | wrIdx (v : Byte)
  /-- WR_TMR u16 (R94). -/
  | wrTmr (v : Word16)
  /-- WR_EN b (R95). -/
  | wrEn (b : Bool)
  /-- WR_TIE b (R96). -/
  | wrTie (b : Bool)
  /-- WR_GIE b (R97). -/
  | wrGie (b : Bool)
  /-- WR_OE b (R98). -/
  | wrOe (b : Bool)
  /-- WR_DUTY u10, as its two parts (R99). -/
  | wrDuty (hi : BitVec 2) (lo : Byte)
  /-- WR_DUTYL u8 (R100). -/
  | wrDutyl (lo : Byte)
  /-- RD_IDX (R101). -/
  | rdIdx
  /-- RD_TMR (R102). -/
  | rdTmr
  /-- RD_DUTY (R103). -/
  | rdDuty
  /-- RD_STATUS (R104). -/
  | rdStatus
  /-- DLY n (R105). -/
  | dly (n : Word16)
  /-- TICK, one edge of the sample timer's clock (R76). -/
  | tick
  /-- VECTOR, the sample service (R81). -/
  | vector
  deriving DecidableEq, Repr

end Sys2Proof
end

