-- ==== Sys2Proof/WellFormed.lean ====
section
/-!
DEFINITION. Which agent may issue which instruction (the issuer column of spec/30_encoding.md R63; R67, R69), and
which instruction lists a host program may hold. The operands' widths are the types of Instr's fields.
-/

namespace Sys2Proof

/-- The agent that may issue an instruction (R63). -/
def Instr.issuer : Instr → Agent
  | .nop => .host
  | .wrIdx _ => .host
  | .wrTmr _ => .host
  | .wrEn _ => .host
  | .wrTie _ => .host
  | .wrGie _ => .host
  | .wrOe _ => .host
  | .wrDuty _ _ => .host
  | .wrDutyl _ => .host
  | .rdIdx => .host
  | .rdTmr => .host
  | .rdDuty => .host
  | .rdStatus => .host
  | .dly _ => .host
  | .tick => .timer
  | .vector => .sequencer

/-- The instruction is one its agent may issue (R63, R67, R69). -/
def WellFormed (a : Agent) (i : Instr) : Bool :=
  decide (i.issuer = a)

/-- A host program holds host operations only (R67). -/
def WellFormedProgram (is : List Instr) : Bool :=
  is.all (WellFormed .host)

end Sys2Proof
end

