-- ==== Sys2Proof/Decode.lean ====
section
/-!
DEFINITION. The operation word of spec/30_encoding.md: its fields (R61), operand forms (R62), opcode map (R63), the total
decoder (R64–R69) and the encoder.
-/

namespace Sys2Proof

/-- Why a word is ILLEGAL for the agent that issues it (R64). -/
inductive Illegal where
  /-- RSV is not 0 (R65). -/
  | reservedField
  /-- TICK or VECTOR from the host (R67). -/
  | eventFromHost
  /-- TIMER issued another word than 0xE00000 (R64, R69). -/
  | notTheTickWord
  /-- SEQUENCER issued another word than 0xF00000 (R64, R69). -/
  | notTheVectorWord
  /-- A must-be-zero bit of DATA is 1 (R66). -/
  | mustBeZero
  deriving DecidableEq, Repr

/-- The word TIMER issues (R69). -/
def tickWord : OpWord := 0xE00000#24

/-- The word SEQUENCER issues (R69). -/
def vectorWord : OpWord := 0xF00000#24

/-- OPC, bits 23:20 (R61). -/
def opcField (w : OpWord) : BitVec 4 := w.extractLsb' 20 4

/-- RSV, bits 19:16 (R61). -/
def rsvField (w : OpWord) : BitVec 4 := w.extractLsb' 16 4

/-- DATA, bits 15:0 (R61). -/
def dataField (w : OpWord) : Word16 := w.extractLsb' 0 16

/-- The operation code of a name (R63). -/
def opcodeBits : Opcode → BitVec 4
  | .nop => 0x0#4
  | .wrIdx => 0x1#4
  | .wrTmr => 0x2#4
  | .wrEn => 0x3#4
  | .wrTie => 0x4#4
  | .wrGie => 0x5#4
  | .wrOe => 0x6#4
  | .wrDuty => 0x7#4
  | .wrDutyl => 0x8#4
  | .rdIdx => 0x9#4
  | .rdTmr => 0xA#4
  | .rdDuty => 0xB#4
  | .rdStatus => 0xC#4
  | .dly => 0xD#4
  | .tick => 0xE#4
  | .vector => 0xF#4

/-- The name of an operation code; all sixteen are allocated (R63). -/
def opcodeOf (c : BitVec 4) : Opcode :=
  match c.toNat with
  | 0 => .nop
  | 1 => .wrIdx
  | 2 => .wrTmr
  | 3 => .wrEn
  | 4 => .wrTie
  | 5 => .wrGie
  | 6 => .wrOe
  | 7 => .wrDuty
  | 8 => .wrDutyl
  | 9 => .rdIdx
  | 10 => .rdTmr
  | 11 => .rdDuty
  | 12 => .rdStatus
  | 13 => .dly
  | 14 => .tick
  | _ => .vector

/-- The operand form of an operation (R63). -/
def formOf : Opcode → Form
  | .nop => .none
  | .wrIdx => .u8
  | .wrTmr => .u16
  | .wrEn => .b1
  | .wrTie => .b1
  | .wrGie => .b1
  | .wrOe => .b1
  | .wrDuty => .u10
  | .wrDutyl => .u8
  | .rdIdx => .none
  | .rdTmr => .none
  | .rdDuty => .none
  | .rdStatus => .none
  | .dly => .u16
  | .tick => .none
  | .vector => .none

/-- The must-be-zero bits of DATA (R62, R64). -/
def mbzMask : Form → Word16
  | .none => 0xFFFF#16
  | .b1 => 0xFFFE#16
  | .u8 => 0xFF00#16
  | .u10 => 0xFC00#16
  | .u16 => 0x0000#16

/-- The operand of form b1, DATA[0] (R62). -/
def operandBit (data : Word16) : Bool := data.getLsbD 0

/-- The operand of form u8 and the low part of form u10, DATA[7:0] (R62). -/
def operandByte (data : Word16) : Byte := data.extractLsb' 0 8

/-- The high part of form u10, DATA[9:8] (R62). -/
def operandHigh (data : Word16) : BitVec 2 := data.extractLsb' 8 2

/-- The operation a name and its DATA field select (R62, R63). -/
def instrOf (o : Opcode) (data : Word16) : Instr :=
  match o with
  | .nop => .nop
  | .wrIdx => .wrIdx (operandByte data)
  | .wrTmr => .wrTmr data
  | .wrEn => .wrEn (operandBit data)
  | .wrTie => .wrTie (operandBit data)
  | .wrGie => .wrGie (operandBit data)
  | .wrOe => .wrOe (operandBit data)
  | .wrDuty => .wrDuty (operandHigh data) (operandByte data)
  | .wrDutyl => .wrDutyl (operandByte data)
  | .rdIdx => .rdIdx
  | .rdTmr => .rdTmr
  | .rdDuty => .rdDuty
  | .rdStatus => .rdStatus
  | .dly => .dly data
  | .tick => .tick
  | .vector => .vector

/-- The decoder, in the order of R64's tests. -/
def decode (a : Agent) (w : OpWord) : Except Illegal Instr :=
  if rsvField w ≠ 0#4 then .error .reservedField
  else if a = .host ∧ (opcField w = 0xE#4 ∨ opcField w = 0xF#4) then .error .eventFromHost
  else if a = .timer ∧ w ≠ tickWord then .error .notTheTickWord
  else if a = .sequencer ∧ w ≠ vectorWord then .error .notTheVectorWord
  else if dataField w &&& mbzMask (formOf (opcodeOf (opcField w))) ≠ 0#16 then .error .mustBeZero
  else .ok (instrOf (opcodeOf (opcField w)) (dataField w))

/-- The operation name of an instruction. -/
def Instr.opcode : Instr → Opcode
  | .nop => .nop
  | .wrIdx _ => .wrIdx
  | .wrTmr _ => .wrTmr
  | .wrEn _ => .wrEn
  | .wrTie _ => .wrTie
  | .wrGie _ => .wrGie
  | .wrOe _ => .wrOe
  | .wrDuty _ _ => .wrDuty
  | .wrDutyl _ => .wrDutyl
  | .rdIdx => .rdIdx
  | .rdTmr => .rdTmr
  | .rdDuty => .rdDuty
  | .rdStatus => .rdStatus
  | .dly _ => .dly
  | .tick => .tick
  | .vector => .vector

/-- The DATA field of form b1 (R62). -/
def bitData (b : Bool) : Word16 := 0#15 ++ BitVec.ofBool b

/-- The DATA field of form u8 (R62). -/
def byteData (v : Byte) : Word16 := 0#8 ++ v

/-- The DATA field of form u10 (R62). -/
def dutyData (hi : BitVec 2) (lo : Byte) : Word16 := 0#6 ++ hi ++ lo

/-- The DATA field of an instruction (R62). -/
def Instr.data : Instr → Word16
  | .nop => 0#16
  | .wrIdx v => byteData v
  | .wrTmr v => v
  | .wrEn b => bitData b
  | .wrTie b => bitData b
  | .wrGie b => bitData b
  | .wrOe b => bitData b
  | .wrDuty hi lo => dutyData hi lo
  | .wrDutyl lo => byteData lo
  | .rdIdx => 0#16
  | .rdTmr => 0#16
  | .rdDuty => 0#16
  | .rdStatus => 0#16
  | .dly n => n
  | .tick => 0#16
  | .vector => 0#16

/-- A word from its opcode and DATA, RSV being 0 (R61, R71: (OPC << 20) | DATA). -/
def packWord (c : BitVec 4) (data : Word16) : OpWord := c ++ 0#4 ++ data

/-- The one word of an instruction (R61, R68). -/
def encode (i : Instr) : OpWord := packWord (opcodeBits i.opcode) i.data

/-- The agent a word is laid before: the event words 0xE00000 and 0xF00000 come from TIMER and SEQUENCER, every
other word from a host program (R64, R69). DEDUCED, safe (log entry 8). -/
def agentOfWord (w : OpWord) : Agent :=
  if w = tickWord then .timer else if w = vectorWord then .sequencer else .host

/-- What the decoder reads from the word whose bits are `w`, the bits from `nbits` up being 0. A word is 24 bits and no
other length exists (R60, R70). -/
def decodeTableWord (nbits w : Nat) : Option Instr :=
  if w % 2 ^ nbits < 2 ^ 24 then
    (decode (agentOfWord (BitVec.ofNat 24 (w % 2 ^ nbits))) (BitVec.ofNat 24 (w % 2 ^ nbits))).toOption
  else none

end Sys2Proof
end

