-- ==== Sys2Proof/Config.lean ====
section
/-!
DEFINITION. The fixed table length, the parameters of spec/00_scope.md R8 with their defaults, and the
free values: what the spec leaves open and no proof may know.
-/

namespace Sys2Proof.Config

/-- LEN, the length of the waveform table (R7, D29). -/
abbrev len : Nat := 158

/-- ROM_TABLE (R8, R22): the waveform table's contents, which the source does not give (N1).
A free value: nothing in Lean can evaluate it (log entry 2). -/
opaque romTable : Fin len → Byte

/-- DESIGN CHOICE (log entry 3), safe. Which of the enabled agents takes the n-th step, where no schedule
names it (R55, R125, R128 leave it open). A free value. -/
opaque freeChoice : Nat → Nat

/-- The parameters the model takes as arguments (R8). A state holds them in a field no step writes, so that
a statement over all states holds for all their values (DESIGN CHOICE, safe, log entry 1).
CARRIER_PERIOD and PWM_WAVE are outside the model (R6 item 4, R8). -/
structure Params where
  /-- RELOAD: what a service writes into the sample timer (D17). -/
  reload : Word16
  /-- BASELINE: the duty held when no playback is active (D27). -/
  baseline : BitVec 10
  /-- RESET_IF: the pending flag after reset (D8). -/
  resetIf : Bool
  /-- STRICT_PRIORITY: no host step while a timer interrupt is pending and enabled (D12). -/
  strictPriority : Bool
  /-- MAX_LATENCY: a bound on the TICKs a pending service waits (D13). -/
  maxLatency : Option Nat
  /-- SPURIOUS_VECTORS: whether other sources enter the shared vector (D14). -/
  spuriousVectors : Bool
  /-- FOSC in Hz: sizes delays only (D30). -/
  fosc : Nat
  /-- STEP7_MS: the delay of Beacon Loop step (7) in ms (D40). -/
  step7Ms : Nat
  deriving DecidableEq, Repr

/-- The defaults of R8. -/
def defaults : Params where
  reload := 65385#16
  baseline := 43#10
  resetIf := false
  strictPriority := false
  maxLatency := none
  spuriousVectors := false
  fosc := 32000000
  step7Ms := 998

end Sys2Proof.Config
end

