-- ==== Sys2Proof/Machine/State.lean ====
section
/-!
DEFINITION. The machine's state as plain data (spec/10_state.md R20, R36, R39, R42), the events of its history, the fault
codes of spec/60_exceptions.md R116, and why a step of the model may stop.
-/

namespace Sys2Proof.Machine

/-- Why the machine stops. -/
inductive Fault where
  /-- Raised by `step` alone, in a state with FAULT ≠ 0: "Every agent has no step in a state with FAULT ≠ 0" (R118).
  Safe: the spec gives such a state no further step (log entry 7). -/
  | noAgentEnabled
  deriving DecidableEq, Repr

/-- Why a step has no meaning. -/
inductive Refusal where
  /-- An instruction whose meaning is not written. No arm raises it. -/
  | notModelled (mnemonic : String)
  /-- Raised by `agentStep`: the schedule names an agent whose step is not enabled, so it is no run (R73: a trace is valid only
  if every step is enabled in the state before it). Safe: the model stops where the spec has no step (log entry 3). -/
  | agentNotEnabled (agent : Agent)
  deriving DecidableEq, Repr

/-- The three fault codes of `raise` (R116). They are recorded in the register FAULT; the step that raises one answers a
next state (log entry 6). -/
inductive FaultCode where
  /-- F_OOB: a service with IF = 1 and IDX >= 158. -/
  | oob
  /-- F_UNINIT: a step needs a register that holds no value. -/
  | uninit
  /-- F_ILLEGAL: a host word that decodes to ILLEGAL. -/
  | illegal
  deriving DecidableEq, Repr

/-- Who writes the duty register (R36). -/
inductive DutyWriter where
  | sequencer
  | host
  deriving DecidableEq, Repr

/-- An observable event (R36). -/
inductive Event where
  | dutyWrite (agent : DutyWriter) (lo : Byte) (hi : Option (BitVec 2))
  | hostRead (op : Opcode) (value : Word16)
  | sample (index : Byte) (value : Byte)
  | fault (agent : Agent) (code : FaultCode) (info : Nat)
  deriving DecidableEq, Repr

/-- The ROM index space as (index, byte) cells, strictly rising; what an unlisted index reads as is `Memory.unlisted`
(Ops.lean). -/
abbrev Memory := List Host.Cell

/-- The state (R20), with the run's parameters and program beside it and the model's own schedule. `none` in `idx`, `tmr`,
`dutyLo` and `dutyHi` is the spec's own no-value marker ⊥ (R20, R21). -/
structure State where
  /-- The parameters of R8; no step writes them (log entry 1). -/
  params : Config.Params
  /-- ROM (R22); no step writes it (R47). -/
  rom : Memory
  /-- HPROG, the host program (R37); no step writes it (log entry 5). -/
  hprog : List OpWord
  /-- IDX, the Playback Index (R23). -/
  idx : Option Byte
  /-- TMR, the sample timer (R25). -/
  tmr : Option Word16
  /-- EN, the Sample-Clock Enable Flag (R27). -/
  en : Bool
  /-- IF, the pending-interrupt flag (R28). -/
  ifFlag : Bool
  /-- TIE, the timer-interrupt enable (R29). -/
  tie : Bool
  /-- GIE, the global interrupt enable (R30). -/
  gie : Bool
  /-- OE, the PWM output-driver enable (R31). -/
  oe : Bool
  /-- DUTY_LO (R32). -/
  dutyLo : Option Byte
  /-- DUTY_HI (R33). -/
  dutyHi : Option (BitVec 2)
  /-- FAULT, three sticky bits (R35). -/
  fault : BitVec 3
  /-- HIST, the event history, oldest first (R36). -/
  hist : List Event
  /-- HPC, the host program position (R37). -/
  hpc : Nat
  /-- HWAIT, the host delay counter (R38). -/
  hwait : Word16
  /-- LAT, the model-only latency count (R41). -/
  lat : Nat
  /-- The MODEL's own field: the agents named from outside for the next steps, next first (DESIGN CHOICE, safe, log entry 3). -/
  sched : List Agent
  /-- The MODEL's own field: the number of steps taken, the argument of the free choice (DESIGN CHOICE, safe, log entry 3). -/
  turn : Nat
  deriving DecidableEq, Repr

/-- The reset values of R42 for a run with the given parameters and host program. ROM lists nothing, so every entry reads as
ROM_TABLE. -/
def State.launch (p : Config.Params) (prog : List OpWord) : State where
  params := p
  rom := []
  hprog := prog
  idx := none
  tmr := none
  en := false
  ifFlag := p.resetIf
  tie := false
  gie := false
  oe := false
  dutyLo := none
  dutyHi := none
  fault := 0#3
  hist := []
  hpc := 0
  hwait := 0#16
  lat := 0
  sched := []
  turn := 0

/-- Reset is the launch state of a run (R140), here with R8's defaults and no host program loaded (log entry 5). -/
def State.reset : State := State.launch Config.defaults []

end Sys2Proof.Machine
end

