-- ==== Sys2Proof/Machine/Operands.lean ====
section
/-!
DEFINITION. The values the operations read and assemble: register numbers (spec/10_state.md R39), the 10-bit duty (R34), the
STATUS view (R40) and zero extension (spec/00_scope.md R11).
-/

namespace Sys2Proof.Machine

/-- The registers of R39, by name. -/
inductive Reg where
  | idx
  | tmr
  | en
  | ifFlag
  | tie
  | gie
  | oe
  | duty
  | status
  | fault
  deriving DecidableEq, Repr

/-- A register's number (R39), which F_UNINIT records (R116). -/
def regNumber : Reg → Nat
  | .idx => 0
  | .tmr => 1
  | .en => 2
  | .ifFlag => 3
  | .tie => 4
  | .gie => 5
  | .oe => 6
  | .duty => 7
  | .status => 8
  | .fault => 9

/-- zext_16 (R11). -/
def zext16 {n : Nat} (v : BitVec n) : Word16 := v.setWidth 16

/-- DUTY = {DUTY_HI, DUTY_LO}; ⊥ if either part is (R34). -/
def State.duty (s : State) : Option (BitVec 10) :=
  match s.dutyHi, s.dutyLo with
  | some hi, some lo => some (hi ++ lo)
  | some _, none => none
  | none, some _ => none
  | none, none => none

/-- STATUS = zext_16({OE, GIE, TIE, IF, EN}) (R40). -/
def State.status (s : State) : Word16 :=
  zext16 (BitVec.ofBool s.oe ++ BitVec.ofBool s.gie ++ BitVec.ofBool s.tie ++ BitVec.ofBool s.ifFlag ++ BitVec.ofBool s.en)

end Sys2Proof.Machine
end

