-- ==== Sys2Proof/Machine/Flags.lean ====
section
/-!
DEFINITION. The flag and enabling conditions: the timer's overflow (spec/40_sample_clock.md R76), a pending and enabled interrupt
(spec/60_exceptions.md R122), the self-disarm (R84), and which agent has a step (R77, R79, R90).
-/

namespace Sys2Proof.Machine

/-- The timer overflows on the step from 0xFFFF to 0x0000 (R76). -/
def timerOverflows (t : Word16) : Bool := decide (t = 0xFFFF#16)

/-- The service of entry `i` is the last: i + 1 = LEN (R81, R84). -/
def isLastSample (i : Byte) : Bool := decide (i.toNat + 1 = Config.len)

/-- A timer interrupt is pending and enabled: IF = TIE = GIE = 1 (R79 case (a), R122). -/
def State.interruptPending (s : State) : Bool := s.ifFlag && s.tie && s.gie

/-- MAX_LATENCY holds the timer back: some L, a pending enabled interrupt and LAT >= L (R77, R126). -/
def State.latencyReached (s : State) : Bool :=
  match s.params.maxLatency with
  | none => false
  | some l => s.interruptPending && decide (l ≤ s.lat)

/-- FAULT = 0. -/
def State.unfaulted (s : State) : Bool := decide (s.fault = 0#3)

/-- TICK's enabling condition (R77). -/
def State.tickEnabled (s : State) : Bool := s.unfaulted && !s.latencyReached

/-- VECTOR's enabling condition (R79). -/
def State.vectorEnabled (s : State) : Bool :=
  s.unfaulted && (s.interruptPending || s.params.spuriousVectors)

/-- A host step's enabling condition (R90). -/
def State.hostEnabled (s : State) : Bool :=
  s.unfaulted && decide (s.hpc < s.hprog.length) && decide (s.hwait = 0#16) &&
    (!s.params.strictPriority || !s.interruptPending)

/-- Whether an agent has a step (R77, R79, R90). -/
def State.enabled (s : State) (a : Agent) : Bool :=
  match a with
  | .timer => s.tickEnabled
  | .sequencer => s.vectorEnabled
  | .host => s.hostEnabled

end Sys2Proof.Machine
end

