-- ==== Sys2Proof/Machine/Ops.lean ====
section
/-!
DEFINITION. The named operations: the waveform ROM (spec/20_memory.md R46), the one write of each register (spec/10_state.md
R39), `log` and `raise` (spec/00_scope.md R11, spec/60_exceptions.md R118), the end of a host step and of a host read
(spec/41_host_interface.md R90, R111), the fetch of an agent's word, and which agent steps next.
-/

namespace Sys2Proof.Machine

/-! ### The waveform ROM -/

/-- What index `a` reads as where memory lists nothing: ROM_TABLE(a) inside the table, nothing outside (R45, R46). -/
def Memory.unlisted (a : Nat) : Option Byte :=
  if h : a < Config.len then some (Config.romTable ⟨a, h⟩) else none

/-- The listed byte at `a`, if any. -/
def Memory.lookup : Memory → Nat → Option Byte
  | [], _ => none
  | (k, b) :: m, a => if k = a then some b else Memory.lookup m a

/-- ROM[i], defined for 0 <= i < LEN (R46). -/
def Memory.sample (m : Memory) (i : Fin Config.len) : Byte :=
  match Memory.lookup m i.val with
  | some b => b
  | none => Config.romTable i

/-- A read of any index: indices from LEN up name no entry (R45). -/
def Memory.read (m : Memory) (a : Nat) : Option Byte :=
  if h : a < Config.len then some (Memory.sample m ⟨a, h⟩) else none

/-- Removes the cell at `a`. -/
def Memory.erase : Memory → Nat → Memory
  | [], _ => []
  | (k, b) :: m, a => if k = a then Memory.erase m a else (k, b) :: Memory.erase m a

/-- Places a cell, keeping the indices strictly rising. -/
def Memory.insert : Memory → Nat → Byte → Memory
  | [], a, b => [(a, b)]
  | (k, c) :: m, a, b =>
    if a < k then (a, b) :: (k, c) :: m
    else if k = a then (a, b) :: m
    else (k, c) :: Memory.insert m a b

/-- Fixes one entry of the table at build time (R22: "fixed at build time"). NO STEP CALLS IT: no step writes ROM (R47). It is how a
table is given to a run from outside; a value an unlisted index reads as removes the cell, and an index outside the table
is refused (log entry 2). -/
def Memory.build (m : Memory) (a : Nat) (b : Byte) : Option Memory :=
  if a < Config.len then
    some (if Memory.unlisted a = some b then Memory.erase m a else Memory.insert m a b)
  else none

/-- Every index of the list is at least `lo` and the indices strictly rise. -/
def Memory.risingFrom : Nat → Memory → Bool
  | _, [] => true
  | lo, (k, _) :: m => decide (lo ≤ k) && Memory.risingFrom (k + 1) m

/-- The canonical form: indices strictly rising and inside the table, no cell equal to what its index reads as unlisted. -/
def Memory.wf (m : Memory) : Bool :=
  Memory.risingFrom 0 m && m.all (fun c => decide (c.1 < Config.len) && decide (Memory.unlisted c.1 ≠ some c.2))

/-! ### Register writes: each register's one home (R39) -/

/-- IDX <- v. -/
def State.setIdx (s : State) (v : Byte) : State := { s with idx := some v }

/-- TMR <- v. -/
def State.setTmr (s : State) (v : Word16) : State := { s with tmr := some v }

/-- EN <- b. -/
def State.setEn (s : State) (b : Bool) : State := { s with en := b }

/-- IF <- b. -/
def State.setIf (s : State) (b : Bool) : State := { s with ifFlag := b }

/-- TIE <- b. -/
def State.setTie (s : State) (b : Bool) : State := { s with tie := b }

/-- GIE <- b. -/
def State.setGie (s : State) (b : Bool) : State := { s with gie := b }

/-- OE <- b. -/
def State.setOe (s : State) (b : Bool) : State := { s with oe := b }

/-- DUTY_LO <- v. -/
def State.setDutyLo (s : State) (v : Byte) : State := { s with dutyLo := some v }

/-- DUTY_HI <- v. -/
def State.setDutyHi (s : State) (v : BitVec 2) : State := { s with dutyHi := some v }

/-- HWAIT <- v. -/
def State.setHwait (s : State) (v : Word16) : State := { s with hwait := v }

/-- LAT <- n. -/
def State.setLat (s : State) (n : Nat) : State := { s with lat := n }

/-- log E: appends an event to HIST (R11, R36). -/
def State.log (s : State) (e : Event) : State := { s with hist := s.hist ++ [e] }

/-- HPC <- HPC + 1 (R90). -/
def State.advance (s : State) : State := { s with hpc := s.hpc + 1 }

/-! ### Faults (R116, R118) -/

/-- A fault's code (R116). -/
def faultNumber : FaultCode → Nat
  | .oob => 0
  | .uninit => 1
  | .illegal => 2

/-- A fault's bit of FAULT (R35, R116). -/
def faultBit (c : FaultCode) : BitVec 3 := 1#3 <<< faultNumber c

/-- raise F_X(info), the one way a fault is taken: it sets the fault's bit, logs the event and writes nothing else
(R118). There is no return from it (R120). -/
def State.raise (s : State) (a : Agent) (c : FaultCode) (info : Nat) : State :=
  { s with fault := s.fault ||| faultBit c, hist := s.hist ++ [.fault a c info] }

/-! ### The end of a host step -/

/-- A host step that did not fault answers with HPC advanced (R90). -/
def hostDone (s : State) : Host.Outcome State Fault Refusal := .next s.advance

/-- A host read: F_UNINIT with the register's number where the register holds no value, else a HostRead event
(R101–R104, R111). -/
def hostRead (op : Opcode) (r : Reg) (v : Option Word16) (s : State) : Host.Outcome State Fault Refusal :=
  match v with
  | none => .next (s.raise .host .uninit (regNumber r))
  | some w => hostDone (s.log (.hostRead op w))

/-! ### The timer's edge and the service (R76, R81) -/

/-- HWAIT counts down while it is not 0 (R38, R76). -/
def State.countDelay (s : State) : State :=
  if s.hwait ≠ 0#16 then s.setHwait (s.hwait - 1#16) else s

/-- LAT counts the edges taken while a timer interrupt is pending and enabled (R41, R76). -/
def State.countLatency (s : State) : State :=
  if s.interruptPending then s.setLat (s.lat + 1) else s

/-- TMR holding `t` counts up by one modulo 2^16; its overflow sets IF (R76). -/
def State.countTimer (s : State) (t : Word16) : State :=
  (if timerOverflows t then s.setIf true else s).setTmr (t + 1#16)

/-- The self-disarm: EN is cleared by the service whose increment reaches LEN (R84). -/
def State.disarmAfter (s : State) (i : Byte) : State :=
  if isLastSample i then s.setEn false else s

/-- The service of entry `i`, whose sample is `v`, in R81's order: reload, duty write, the two events, post-increment, end-of-table
check, clear of the pending flag. -/
def State.service (s : State) (i v : Byte) : State :=
  (((((((s.setTmr s.params.reload).setDutyLo v).log (.sample i v)).log (.dutyWrite .sequencer v none)).setIdx
    (i + 1#8)).disarmAfter i).setIf false).setLat 0

/-! ### The agents' words and turns (R12, R64, R90) -/

/-- The word an agent issues, where its step is enabled: the host's comes from HPROG[HPC], the event words from the agents
themselves (R69, R90). -/
def State.fetch (s : State) (a : Agent) : Option OpWord :=
  if s.enabled a then
    match a with
    | .timer => some tickWord
    | .sequencer => some vectorWord
    | .host => s.hprog[s.hpc]?
  else none

/-- The agents that have a step. -/
def State.enabledAgents (s : State) : List Agent :=
  [Agent.timer, Agent.sequencer, Agent.host].filter s.enabled

/-- The free choice among enabled agents on turn `n`; with one there is no choice (log entry 3). -/
def pickAgent (as : List Agent) (n : Nat) : Option Agent :=
  match as with
  | [] => none
  | [a] => some a
  | a :: b :: rest => (a :: b :: rest)[Config.freeChoice n % (rest.length + 2)]?

/-- Who steps next: nobody where no agent is enabled, else the agent the schedule names, else a free choice among the
enabled agents (R55, R125, R128; log entry 3). -/
def State.nextAgent (s : State) : Option Agent :=
  match s.enabledAgents with
  | [] => none
  | a :: as =>
    match s.sched with
    | b :: _ => some b
    | [] => pickAgent (a :: as) s.turn

/-- The model's own bookkeeping of one turn: the schedule's head is used up and the turn counter advances. -/
def State.takeTurn (s : State) : State := { s with sched := s.sched.tail, turn := s.turn + 1 }

/-! ### Laying a word where the next step fetches it (log entry 9) -/

/-- HPROG with `w` at position `k`, padded with NOP words (R92) where it is shorter. -/
def placeInProgram (prog : List OpWord) (k : Nat) (w : OpWord) : List OpWord :=
  prog.take k ++ List.replicate (k - prog.length) 0x000000#24 ++ w :: prog.drop (k + 1)

/-- The state in which agent `a` has the next step and is enabled: FAULT is cleared, the schedule names `a`, and what else would
hold `a` back is lifted (R77, R79, R90). -/
def State.letStep (s : State) (a : Agent) : State :=
  match a with
  | .timer => { s with fault := 0#3, sched := .timer :: s.sched,
                       params := { s.params with maxLatency := if s.latencyReached then none else s.params.maxLatency } }
  | .sequencer => { s with fault := 0#3, sched := .sequencer :: s.sched,
                           params := { s.params with spuriousVectors := s.params.spuriousVectors || !s.interruptPending } }
  | .host => { s with fault := 0#3, sched := .host :: s.sched, hwait := 0#16,
                      params := { s.params with strictPriority := s.params.strictPriority && !s.interruptPending } }

/-- The state whose next step fetches the word `w`: an event word from its own agent, any other word from the host program at
HPC (R64, R69, R90). -/
def State.placeWord (s : State) (w : OpWord) : State :=
  match agentOfWord w with
  | .timer => s.letStep .timer
  | .sequencer => s.letStep .sequencer
  | .host => { s.letStep .host with hprog := placeInProgram s.hprog s.hpc w }

end Sys2Proof.Machine
end

