-- ==== Sys2Proof/Machine/HostDelay.lean ====
section
/-!
DEFINITION. The host's delay word (spec/41_host_interface.md R105).
-/

namespace Sys2Proof.Machine

/-- DLY n (R105): HWAIT <- n. The host has no step until TICKs have counted it down to 0 (R90). -/
def execDly (n : Word16) (s : State) : Host.Outcome State Fault Refusal := hostDone (s.setHwait n)

end Sys2Proof.Machine
end

