-- ==== Sys2Proof/Machine/HostReads.lean ====
section
/-!
DEFINITION. The host's register reads (spec/41_host_interface.md R101–R104). A read changes nothing but HIST and HPC
(spec/20_memory.md R52).
-/

namespace Sys2Proof.Machine

/-- RD_IDX (R101). -/
def execRdIdx (s : State) : Host.Outcome State Fault Refusal :=
  hostRead .rdIdx .idx (s.idx.map zext16) s

/-- RD_TMR (R102). -/
def execRdTmr (s : State) : Host.Outcome State Fault Refusal :=
  hostRead .rdTmr .tmr s.tmr s

/-- RD_DUTY (R103). -/
def execRdDuty (s : State) : Host.Outcome State Fault Refusal :=
  hostRead .rdDuty .duty (s.duty.map zext16) s

/-- RD_STATUS (R104): its fields always hold a value. -/
def execRdStatus (s : State) : Host.Outcome State Fault Refusal :=
  hostRead .rdStatus .status (some s.status) s

end Sys2Proof.Machine
end

