-- ==== Sys2Proof/Machine/HostWrites.lean ====
section
/-!
DEFINITION. The host's NOP and register writes (spec/41_host_interface.md R92–R100). Each answers with HPC advanced (R90).
-/

namespace Sys2Proof.Machine

/-- NOP (R92). -/
def execNop (s : State) : Host.Outcome State Fault Refusal := hostDone s

/-- WR_IDX u8 (R93): any value is written as given. -/
def execWrIdx (v : Byte) (s : State) : Host.Outcome State Fault Refusal := hostDone (s.setIdx v)

/-- WR_TMR u16 (R94); IF is not touched. -/
def execWrTmr (v : Word16) (s : State) : Host.Outcome State Fault Refusal := hostDone (s.setTmr v)

/-- WR_EN b (R95); a pending request stays. -/
def execWrEn (b : Bool) (s : State) : Host.Outcome State Fault Refusal := hostDone (s.setEn b)

/-- WR_TIE b (R96). -/
def execWrTie (b : Bool) (s : State) : Host.Outcome State Fault Refusal := hostDone (s.setTie b)

/-- WR_GIE b (R97). -/
def execWrGie (b : Bool) (s : State) : Host.Outcome State Fault Refusal := hostDone (s.setGie b)

/-- WR_OE b (R98). -/
def execWrOe (b : Bool) (s : State) : Host.Outcome State Fault Refusal := hostDone (s.setOe b)

/-- WR_DUTY u10 (R99): both parts and one DutyWrite event. -/
def execWrDuty (hi : BitVec 2) (lo : Byte) (s : State) : Host.Outcome State Fault Refusal :=
  hostDone (((s.setDutyHi hi).setDutyLo lo).log (.dutyWrite .host lo (some hi)))

/-- WR_DUTYL u8 (R100): the low part alone; DUTY_HI keeps its value, ⊥ included. -/
def execWrDutyl (lo : Byte) (s : State) : Host.Outcome State Fault Refusal :=
  hostDone ((s.setDutyLo lo).log (.dutyWrite .host lo none))

end Sys2Proof.Machine
end

