-- ==== Sys2Proof/Machine/SampleClock.lean ====
section
/-!
DEFINITION. The Sample Clock family (spec/40_sample_clock.md): TICK and VECTOR. Their enabling (R77, R79) is `State.enabled`.
-/

namespace Sys2Proof.Machine

/-- TICK (R76): F_UNINIT before any write where the timer runs without a value; else the host delay and the latency count
take the edge, and with EN = 1 the timer does. -/
def execTick (s : State) : Host.Outcome State Fault Refusal :=
  match s.en, s.tmr with
  | true, none => .next (s.raise .timer .uninit (regNumber .tmr))
  | true, some t => .next (s.countDelay.countLatency.countTimer t)
  | false, _ => .next s.countDelay.countLatency

/-- VECTOR (R80–R82): the guard on IF, then F_UNINIT and F_OOB before any write, then the service of the entry at IDX. -/
def execVector (s : State) : Host.Outcome State Fault Refusal :=
  if s.ifFlag then
    match s.idx with
    | none => .next (s.raise .sequencer .uninit (regNumber .idx))
    | some i =>
      if h : i.toNat < Config.len then .next (s.service i (Memory.sample s.rom ⟨i.toNat, h⟩))
      else .next (s.raise .sequencer .oob i.toNat)
  else .next s

end Sys2Proof.Machine
end

