-- ==== Sys2Proof/Machine/Dispatch.lean ====
section
/-!
DEFINITION. One arm per instruction: the effect of its step once the step is taken.
-/

namespace Sys2Proof.Machine

def exec (i : Instr) (s : State) : Host.Outcome State Fault Refusal :=
  match i with
  -- the host's words (spec/41_host_interface.md)
  | .nop => Sys2Proof.Machine.execNop s
  | .wrIdx v => Sys2Proof.Machine.execWrIdx v s
  | .wrTmr v => Sys2Proof.Machine.execWrTmr v s
  | .wrEn b => Sys2Proof.Machine.execWrEn b s
  | .wrTie b => Sys2Proof.Machine.execWrTie b s
  | .wrGie b => Sys2Proof.Machine.execWrGie b s
  | .wrOe b => Sys2Proof.Machine.execWrOe b s
  | .wrDuty hi lo => Sys2Proof.Machine.execWrDuty hi lo s
  | .wrDutyl lo => Sys2Proof.Machine.execWrDutyl lo s
  | .rdIdx => Sys2Proof.Machine.execRdIdx s
  | .rdTmr => Sys2Proof.Machine.execRdTmr s
  | .rdDuty => Sys2Proof.Machine.execRdDuty s
  | .rdStatus => Sys2Proof.Machine.execRdStatus s
  | .dly n => Sys2Proof.Machine.execDly n s
  -- the events (spec/40_sample_clock.md)
  | .tick => Sys2Proof.Machine.execTick s
  | .vector => Sys2Proof.Machine.execVector s

end Sys2Proof.Machine
end

