-- ==== Sys2Proof/Machine/Agents.lean ====
section
/-!
DEFINITION. One atomic step of one agent (spec/00_scope.md R12; R90, R91): fetch the agent's word, decode it, perform its rule.
-/

namespace Sys2Proof.Machine

/-- A fetched word is decoded for its agent and performed; an ILLEGAL word raises F_ILLEGAL with the word as its info, writes no
register and does not advance HPC (R91). -/
def runWord (a : Agent) (w : OpWord) (s : State) : Host.Outcome State Fault Refusal :=
  match decode a w with
  | .ok i => exec i s
  | .error _ => .next (s.raise a .illegal w.toNat)

/-- The step of agent `a`; an agent whose step is not enabled has none. -/
def agentStep (a : Agent) (s : State) : Host.Outcome State Fault Refusal :=
  match s.fetch a with
  | some w => runWord a w s
  | none => .refused (.agentNotEnabled a)

end Sys2Proof.Machine
end

