-- ==== Sys2Proof/Machine/Step.lean ====
section
/-!
DEFINITION. One step of a run (spec/20_memory.md R55): the agent whose turn it is takes its atomic step.
-/

namespace Sys2Proof.Machine

/-- One step: nobody steps in a state with FAULT ≠ 0 (R118); else the next agent takes its step. -/
def step (s : State) : Host.Outcome State Fault Refusal :=
  match s.nextAgent with
  | none => .fault .noAgentEnabled
  | some a => agentStep a s.takeTurn

/-- The state in which the very next step runs the word whose bits are `w`, the bits from `nbits` up being 0 (log entry 9). -/
def State.withFetchWord (s : State) (nbits w : Nat) : State :=
  s.placeWord (BitVec.ofNat 24 (w % 2 ^ nbits))

end Sys2Proof.Machine
end

