-- ==== Sys2Proof/Machine/Pseudo.lean ====
section
/-!
DEFINITION. The pseudo-instructions and their expansions into host words (spec/30_encoding.md R72).
-/

namespace Sys2Proof.Machine

/-- The pseudo-instructions of R72. -/
inductive Pseudo where
  | arm
  | idle
  | init
  | dlyl (n : Nat)
  | beacon
  deriving DecidableEq, Repr

/-- TPS, the TICKs per millisecond, FOSC / 4 / 1000 (R72, R155). DESIGN CHOICE, safe (log entry 10): a quotient that is not whole
is rounded down. -/
def ticksPerMs (p : Config.Params) : Nat := p.fosc / 4 / 1000

/-- WR_DUTY BASELINE: the parameter split into the operand's two parts (R62, R72). -/
def wrBaseline (p : Config.Params) : Instr :=
  .wrDuty (p.baseline.extractLsb' 8 2) (p.baseline.extractLsb' 0 8)

/-- DLYL n: whole delays of 65535, then the remainder where there is one (R72). -/
def expandDlyl (n : Nat) : List Instr :=
  List.replicate (n / 65535) (.dly 0xFFFF#16) ++
    if n % 65535 = 0 then [] else [.dly (BitVec.ofNat 16 (n % 65535))]

/-- ARM: index, timer, enable (R72, R107). -/
def expandArm (p : Config.Params) : List Instr := [.wrIdx 0#8, .wrTmr p.reload, .wrEn true]

/-- INIT, the startup order (R72, R143). -/
def expandInit (p : Config.Params) : List Instr :=
  [.wrOe true, .wrEn false, .wrGie true, .wrTie true, .wrOe false, wrBaseline p, .wrOe true]

/-- The expansion of a pseudo-instruction (R72). -/
def expand (p : Config.Params) : Pseudo → List Instr
  | .arm => expandArm p
  | .idle => [wrBaseline p]
  | .init => expandInit p
  | .dlyl n => expandDlyl n
  | .beacon => expandArm p ++ expandDlyl (2 * ticksPerMs p) ++ expandDlyl (p.step7Ms * ticksPerMs p)

end Sys2Proof.Machine
end

