-- ==== Sys2Proof/Machine/Assembler.lean ====
section
/-!
DEFINITION. The assembler syntax (spec/30_encoding.md R71): one line of text to its words, the pseudo-instructions of R72
included. An operand out of range is an assembly error, not an encoding.
-/

namespace Sys2Proof.Machine

/-- A space or a tab separates words (DESIGN CHOICE, safe, log entry 11). -/
def isBlankChar (c : Char) : Bool := decide (c = ' ') || decide (c = '\t')

/-- The words of a text: the maximal runs of characters that are not blank. `cur` holds the run being read, last character
first. -/
def splitWords : List Char → List Char → List (List Char)
  | [], cur => if cur = [] then [] else [cur.reverse]
  | c :: cs, cur =>
    if isBlankChar c then (if cur = [] then splitWords cs [] else cur.reverse :: splitWords cs [])
    else splitWords cs (c :: cur)

/-- The text before the comment (R71). -/
def dropComment (cs : List Char) : List Char := cs.takeWhile (fun c => decide (c ≠ ';'))

/-- The text after the label, where there is one; labels are comments only (R71). -/
def dropLabel (cs : List Char) : List Char :=
  if cs.contains ':' then (cs.dropWhile (fun c => decide (c ≠ ':'))).tail else cs

/-- The value of a digit: decimal digits, and letters in either case (DESIGN CHOICE, safe, log entry 11). -/
def digitValue (c : Char) : Option Nat :=
  let n := c.toNat
  if 48 ≤ n ∧ n ≤ 57 then some (n - 48)
  else if 65 ≤ n ∧ n ≤ 70 then some (n - 55)
  else if 97 ≤ n ∧ n ≤ 102 then some (n - 87)
  else none

/-- The number the digits stand for in a base, after `acc`. -/
def readDigits (base : Nat) : List Char → Nat → Option Nat
  | [], acc => some acc
  | c :: cs, acc =>
    match digitValue c with
    | none => none
    | some d => if d < base then readDigits base cs (base * acc + d) else none

/-- A number has at least one digit. -/
def readNumber (base : Nat) (cs : List Char) : Option Nat :=
  if cs = [] then none else readDigits base cs 0

/-- An operand: decimal, 0x hexadecimal, 0b binary, or a parameter's name (R71). -/
def readOperand (p : Config.Params) (cs : List Char) : Option Nat :=
  if cs = ['R', 'E', 'L', 'O', 'A', 'D'] then some p.reload.toNat
  else if cs = ['B', 'A', 'S', 'E', 'L', 'I', 'N', 'E'] then some p.baseline.toNat
  else if cs = ['L', 'E', 'N'] then some Config.len
  else
    match cs with
    | '0' :: 'x' :: ds => readNumber 16 ds
    | '0' :: 'b' :: ds => readNumber 2 ds
    | ds => readNumber 10 ds

/-- The mnemonics of the host's words (R63). TICK and VECTOR are no host words (R67). -/
def hostMnemonics : List (List Char × Opcode) :=
  [(['N', 'O', 'P'], .nop),
   (['W', 'R', '_', 'I', 'D', 'X'], .wrIdx),
   (['W', 'R', '_', 'T', 'M', 'R'], .wrTmr),
   (['W', 'R', '_', 'E', 'N'], .wrEn),
   (['W', 'R', '_', 'T', 'I', 'E'], .wrTie),
   (['W', 'R', '_', 'G', 'I', 'E'], .wrGie),
   (['W', 'R', '_', 'O', 'E'], .wrOe),
   (['W', 'R', '_', 'D', 'U', 'T', 'Y'], .wrDuty),
   (['W', 'R', '_', 'D', 'U', 'T', 'Y', 'L'], .wrDutyl),
   (['R', 'D', '_', 'I', 'D', 'X'], .rdIdx),
   (['R', 'D', '_', 'T', 'M', 'R'], .rdTmr),
   (['R', 'D', '_', 'D', 'U', 'T', 'Y'], .rdDuty),
   (['R', 'D', '_', 'S', 'T', 'A', 'T', 'U', 'S'], .rdStatus),
   (['D', 'L', 'Y'], .dly)]

/-- How many values a form's operand has: 2, 256, 1024 or 65536 (R71). -/
def operandCount : Form → Nat
  | .none => 0
  | .b1 => 2
  | .u8 => 256
  | .u10 => 1024
  | .u16 => 65536

/-- The word of an operation with its operand, (OPC << 20) | DATA; an operand out of range, missing or one too many is an error
(R71). -/
def assembleOp (o : Opcode) (operand : Option Nat) : Option OpWord :=
  match operand with
  | none => if formOf o = .none then some (packWord (opcodeBits o) 0#16) else none
  | some n => if n < operandCount (formOf o) then some (packWord (opcodeBits o) (BitVec.ofNat 16 n)) else none

/-- The pseudo-instruction a line names (R72). -/
def readPseudo (p : Config.Params) (ws : List (List Char)) : Option Pseudo :=
  match ws with
  | [m] =>
    if m = ['A', 'R', 'M'] then some .arm
    else if m = ['I', 'D', 'L', 'E'] then some .idle
    else if m = ['I', 'N', 'I', 'T'] then some .init
    else if m = ['B', 'E', 'A', 'C', 'O', 'N'] then some .beacon
    else none
  | [m, x] => if m = ['D', 'L', 'Y', 'L'] then (readOperand p x).map Pseudo.dlyl else none
  | [] => none
  | _ :: _ :: _ :: _ => none

/-- The operation and operand a line's words name (R71). -/
def assembleWords (p : Config.Params) (ws : List (List Char)) : Option OpWord :=
  match ws with
  | [m] =>
    match hostMnemonics.lookup m with
    | none => none
    | some o => assembleOp o none
  | [m, x] =>
    match hostMnemonics.lookup m, readOperand p x with
    | some o, some n => assembleOp o (some n)
    | some _, none => none
    | none, _ => none
  | [] => none
  | _ :: _ :: _ :: _ => none

/-- The words of one line (R71, R72); none is an assembly error. A line with no operation has no words (DESIGN CHOICE, safe, log
entry 11). -/
def assembleLine (p : Config.Params) (line : List Char) : Option (List OpWord) :=
  let ws := splitWords (dropLabel (dropComment line)) []
  match ws with
  | [] => some []
  | _ :: _ =>
    match readPseudo p ws with
    | some q => some ((expand p q).map encode)
    | none => (assembleWords p ws).map (fun w => [w])

/-- A host program from its lines. -/
def assemble (p : Config.Params) : List (List Char) → Option (List OpWord)
  | [] => some []
  | l :: ls =>
    match assembleLine p l, assemble p ls with
    | some ws, some rest => some (ws ++ rest)
    | some _, none => none
    | none, _ => none

end Sys2Proof.Machine
end

