-- ==== Sys2Proof/Machine/Trace.lean ====
section
/-!
DEFINITION. Traces (spec/30_encoding.md R73): the written record of a run. A trace is valid only if every step is enabled in the
state before it and every line's word is the one its agent issues there.
-/

namespace Sys2Proof.Machine

/-- A line of a trace: `H:` with the host's word, `T: TICK × n`, `S: VECTOR` (R73). -/
inductive TraceLine where
  | host (w : OpWord)
  | ticks (n : Nat)
  | vector
  deriving DecidableEq, Repr

/-- The steps a line stands for, each with its agent and word (R69, R73). -/
def traceSteps : TraceLine → List (Agent × OpWord)
  | .host w => [(.host, w)]
  | .ticks n => List.replicate n (.timer, tickWord)
  | .vector => [(.sequencer, vectorWord)]

/-- The state after the steps; none where a step is not enabled or its word is not its agent's there (R73). -/
def runSteps : List (Agent × OpWord) → State → Option State
  | [], s => some s
  | (a, w) :: rest, s =>
    if s.fetch a = some w then
      match runWord a w s with
      | .next t => runSteps rest t
      | .fault _ => none
      | .refused _ => none
    else none

/-- The state after a trace; none where the trace is not valid (R73). -/
def runTrace (ls : List TraceLine) (s : State) : Option State := runSteps (ls.flatMap traceSteps) s

end Sys2Proof.Machine
end

