-- ==== Sys2Proof/Machine/Observe.lean ====
section
/-!
DEFINITION. What is observed of a run (spec/00_scope.md R15, spec/41_host_interface.md R110): events, faults, what the pin carries.
-/

namespace Sys2Proof.Machine

/-- What the PWM pin shows (R31, R110). The carrier and how a duty maps to a high time are outside the model (R6 item 4). -/
inductive Pin where
  /-- OE = 0: the pin is not driven by the PWM. -/
  | undriven
  /-- OE = 1: the pin carries the carrier at this duty. -/
  | carrier (duty : Option (BitVec 10))
  deriving DecidableEq, Repr

/-- The pin in a state (R31, R110). -/
def State.pin (s : State) : Pin := if s.oe then .carrier s.duty else .undriven

/-- The samples played, as (index, value), oldest first (R36). -/
def samplesOf : List Event → List (Byte × Byte)
  | [] => []
  | .sample i v :: es => (i, v) :: samplesOf es
  | .dutyWrite _ _ _ :: es => samplesOf es
  | .hostRead _ _ :: es => samplesOf es
  | .fault _ _ _ :: es => samplesOf es

/-- The values the service wrote into the duty register, oldest first (R163). -/
def serviceDuties : List Event → List Byte
  | [] => []
  | .dutyWrite .sequencer lo _ :: es => lo :: serviceDuties es
  | .dutyWrite .host _ _ :: es => serviceDuties es
  | .sample _ _ :: es => serviceDuties es
  | .hostRead _ _ :: es => serviceDuties es
  | .fault _ _ _ :: es => serviceDuties es

/-- Whether an event is a Fault event. -/
def isFaultEvent : Event → Bool
  | .fault _ _ _ => true
  | .sample _ _ => false
  | .dutyWrite _ _ _ => false
  | .hostRead _ _ => false

/-- The first `k` entries of the table, as (index, value) (R162). -/
def tableUpTo (m : Memory) : Nat → List (Byte × Byte)
  | 0 => []
  | k + 1 =>
    tableUpTo m k ++ (if h : k < Config.len then [(BitVec.ofNat 8 k, Memory.sample m ⟨k, h⟩)] else [])

/-- What a run is observed by (R15): the state it ends in, its history and its fault record. -/
structure Observation where
  state : State
  history : List Event
  faults : BitVec 3
  deriving DecidableEq, Repr

/-- The observation of a run that ends in `s` (R15). -/
def observe (s : State) : Observation := { state := s, history := s.hist, faults := s.fault }

end Sys2Proof.Machine
end

