-- ==== Sys2Proof/Safety.lean ====
section
/-!
DEFINITION. The terms claims are stated in: final states (spec/70_reset_and_hazards.md R158), runs and fairness (R160), several
TICKs in a row, and the invariants of a run (spec/10_state.md R24, R35; spec/60_exceptions.md R119, R126; R162).
-/

namespace Sys2Proof.Safety

open Sys2Proof.Machine

/-- A final state (R158). -/
def Final (s : State) : Prop :=
  s.fault = 0#3 ∧ s.hpc = s.hprog.length ∧ s.hwait = 0#16 ∧ s.en = false ∧ s.ifFlag = false

/-- The instructions' effects one after another, each answering a next state; enabling is not tested (log entry 14). -/
def execAll : List Instr → State → Option State
  | [], s => some s
  | i :: is, s =>
    match exec i s with
    | .next t => execAll is t
    | .fault _ => none
    | .refused _ => none

/-- `n` TICKs in a row. -/
def ticks (n : Nat) (s : State) : Option State := execAll (List.replicate n .tick) s

/-- The agents' steps taken one after another, each enabled where it is taken (R12, R55). -/
def agentSteps : List Agent → State → Option State
  | [], s => some s
  | a :: as, s =>
    match agentStep a s with
    | .next t => agentSteps as t
    | .fault _ => none
    | .refused _ => none

/-- A run without end: each step is one agent's (R12). -/
def IsRun (st : Nat → State) (ag : Nat → Agent) : Prop :=
  ∀ n, agentStep (ag n) (st n) = .next (st (n + 1))

/-- Weak fairness: an agent whose step stays enabled takes it (R160). -/
def WeaklyFair (st : Nat → State) (ag : Nat → Agent) : Prop :=
  ∀ a n, (∀ m, n ≤ m → (st m).enabled a = true) → ∃ m, n ≤ m ∧ ag m = a

/-- The word is no host write of IDX, TMR, EN, TIE or GIE (the hypothesis of R162). -/
def leavesPlayback : Instr → Bool
  | .wrIdx _ => false
  | .wrTmr _ => false
  | .wrEn _ => false
  | .wrTie _ => false
  | .wrGie _ => false
  | .nop => true
  | .wrOe _ => true
  | .wrDuty _ _ => true
  | .wrDutyl _ => true
  | .rdIdx => true
  | .rdTmr => true
  | .rdDuty => true
  | .rdStatus => true
  | .dly _ => true
  | .tick => true
  | .vector => true

/-- The host step of a state, if it takes one, leaves the playback alone: its word is no such write. -/
def HostLeavesPlayback (s : State) : Prop :=
  ∀ w i, s.hprog[s.hpc]? = some w → decode .host w = .ok i → leavesPlayback i = true

/-- The host's next word, if there is one, is not `i`'s (R90). -/
def NextWordIsNot (i : Instr) (s : State) : Prop :=
  ∀ w, s.hprog[s.hpc]? = some w → decode .host w ≠ .ok i

/-- The host program holds the words of `is` from HPC on (R37, R72). -/
def HoldsFromHpc (is : List Instr) (s : State) : Prop :=
  ∀ k i, is[k]? = some i → s.hprog[s.hpc + k]? = some (encode i)

/-- Every write to IDX the host program holds is in [0, 158] (R24, R161). -/
def IndexWritesInRange (s : State) : Prop :=
  ∀ w ∈ s.hprog, ∀ v, decode .host w = .ok (.wrIdx v) → v.toNat ≤ Config.len

/-- IDX is ⊥ or in [0, 158] (R24, R161). -/
def IndexInRange (s : State) : Prop :=
  ∀ i, s.idx = some i → i.toNat ≤ Config.len

/-- FAULT is 0 and HIST holds no Fault event, or FAULT is one bit and HIST's last event, its only Fault event, is that fault
(R35, R118, R119, R127). -/
def FaultRecorded (s : State) : Prop :=
  (s.fault = 0#3 ∧ s.hist.all (fun e => !isFaultEvent e) = true) ∨
    ∃ h a c n, s.hist = h ++ [.fault a c n] ∧ h.all (fun e => !isFaultEvent e) = true ∧ s.fault = faultBit c

/-- LAT stays within MAX_LATENCY where it is set (R126). -/
def LatencyBounded (s : State) : Prop :=
  ∀ l, s.params.maxLatency = some l → s.lat ≤ l

/-- The pending service is no older than the timer says: where IF = 1 the timer holds a value of at most LAT, both enables are
set, and a latency bound below 65536 holds LAT (R78, R126). -/
def NoOverflowLost (s : State) : Prop :=
  s.tie = true ∧ s.gie = true ∧ (∃ l, s.params.maxLatency = some l ∧ l < 65536 ∧ s.lat ≤ l) ∧
    (s.ifFlag = true → ∃ t, s.tmr = some t ∧ t.toNat ≤ s.lat)

/-- A playback from an arm, with `k` samples played after the history `h0`: the samples are the first `k` of the table in order,
IDX is `k`, the enables are set, and EN is 1 until all 158 are played (R83, R84, R162). -/
def PlaybackAt (h0 : List Event) (k : Nat) (s : State) : Prop :=
  k ≤ Config.len ∧ s.idx = some (BitVec.ofNat 8 k) ∧ s.tmr.isSome = true ∧ s.tie = true ∧ s.gie = true ∧
    samplesOf s.hist = samplesOf h0 ++ tableUpTo s.rom k ∧
    s.en = decide (k < Config.len) ∧
    (k = Config.len → s.ifFlag = false ∧ s.tmr = some s.params.reload)

/-- One round of a playback served at once, by the agents that step: the TICKs of one sample interval, then the service
(R85, R135). -/
def playRound (p : Config.Params) : List Agent :=
  List.replicate (65536 - p.reload.toNat) .timer ++ [.sequencer]

end Sys2Proof.Safety
end

