-- ==== Sys2Proof/Certificates/Slice0/Obligations.lean ====
section
/-!
DEFINITION. The statements for the provers. Each docstring names the rules of spec/ it formalises.
-/

open Sys2Proof Sys2Proof.Machine Sys2Proof.Safety

/-! ### Reset -/

/-- R42: the reset value of every piece of state, for every choice of the parameters and host program. The clause on `State.reset`
is the model's choice: it is the launch state with R8's default parameters (log entry 1) and no program (log entry 5). -/
def Obligations.LaunchStateHoldsResetValues : Prop :=
  (∀ (p : Config.Params) (prog : List OpWord),
    (∀ i : Fin 158, Memory.sample (State.launch p prog).rom i = Config.romTable i) ∧
    (State.launch p prog).idx = none ∧ (State.launch p prog).tmr = none ∧
    (State.launch p prog).en = false ∧ (State.launch p prog).ifFlag = p.resetIf ∧
    (State.launch p prog).tie = false ∧ (State.launch p prog).gie = false ∧ (State.launch p prog).oe = false ∧
    (State.launch p prog).dutyLo = none ∧ (State.launch p prog).dutyHi = none ∧
    (State.launch p prog).fault = 0#3 ∧ (State.launch p prog).hist = [] ∧ (State.launch p prog).hpc = 0 ∧
    (State.launch p prog).hwait = 0#16 ∧ (State.launch p prog).lat = 0) ∧
  State.reset = State.launch Config.defaults [] ∧ Config.defaults.resetIf = false

/-- R42, R76, R79, R142: after reset both enables mask the service and the timer is stopped, so that without spurious entries no
VECTOR is enabled, and any number of TICKs leaves the launch state as it is. From EN = 0 and IF = 0 every agent's step but the
host's WR_EN 1 keeps EN = 0 and IF = 0 and no VECTOR enabled; so a run from a launch state with RESET_IF = false plays nothing
before its host reaches a WR_EN 1, whatever its first `k` words are otherwise. -/
def Obligations.NoServiceBeforeTheHostArms : Prop :=
  (∀ (p : Config.Params) (prog : List OpWord) (n : Nat), p.spuriousVectors = false →
    ticks n (State.launch p prog) = some (State.launch p prog) ∧ (State.launch p prog).enabled .sequencer = false) ∧
  (∀ (a : Agent) (s t : State), s.en = false → s.ifFlag = false → s.params.spuriousVectors = false →
    (a = .host → NextWordIsNot (.wrEn true) s) → agentStep a s = .next t →
      t.en = false ∧ t.ifFlag = false ∧ t.params.spuriousVectors = false ∧ t.enabled .sequencer = false) ∧
  (∀ (p : Config.Params) (prog : List OpWord) (k : Nat) (as : List Agent) (t : State),
    p.spuriousVectors = false → p.resetIf = false → (∀ w ∈ prog.take k, decode .host w ≠ .ok (.wrEn true)) →
    agentSteps as (State.launch p prog) = some t → t.hpc ≤ k →
      t.en = false ∧ t.ifFlag = false ∧ t.enabled .sequencer = false ∧ samplesOf t.hist = [])

/-! ### A step of the run -/

/-- A step runs the decoded instruction: the agent whose turn it is fetches its word, and the step is the instruction's on the
state whose turn is taken (the schedule's head used, the turn counted: the model's own bookkeeping, log entry 3). -/
def Obligations.StepRunsDecodedInstruction : Prop :=
  ∀ (s : State) (a : Agent) (w : OpWord) (i : Instr),
    s.nextAgent = some a → s.fetch a = some w → decode a w = .ok i →
      step s = exec i { s with sched := s.sched.tail, turn := s.turn + 1 }

/-- R55, R128: whichever enabled agent the schedule names takes its step, and it answers a next state; so every interleaving the
enabling conditions allow is a run of `step`. -/
def Obligations.EveryEnabledAgentMayStepNext : Prop :=
  ∀ (s : State) (a : Agent) (rest : List Agent), s.enabled a = true →
    step { s with sched := a :: rest } = agentStep a { s with sched := rest, turn := s.turn + 1 } ∧
      ∃ t, agentStep a { s with sched := rest, turn := s.turn + 1 } = .next t

/-- R77, R79, R90: in every unfaulted state some agent has a step, so a run without a schedule goes on; in a faulted state `step`
stops with the fault named for it (R118). -/
def Obligations.RunGoesOnExactlyWhileUnfaulted : Prop :=
  (∀ s : State, s.fault = 0#3 → s.sched = [] → ∃ t, step s = .next t) ∧
  (∀ s : State, s.fault ≠ 0#3 → step s = .fault .noAgentEnabled)

/-- R73: a valid trace is a run: the agents of its steps, taken one after another, are each enabled and end in the same state; and
a step whose agent is not enabled makes it invalid. -/
def Obligations.ValidTraceIsARun : Prop :=
  (∀ (ws : List (Agent × OpWord)) (s t : State), runSteps ws s = some t → agentSteps (ws.map Prod.fst) s = some t) ∧
  (∀ (a : Agent) (w : OpWord) (ws : List (Agent × OpWord)) (s : State), s.enabled a = false → runSteps ((a, w) :: ws) s = none)

/-- R22, R47: no step writes ROM; every ROM index reads after a step as before it. R8, R37: the parameters and the host program are
fixed for a run; that they stand in fields of the state, which no step writes, is the model's choice (log entries 1 and 5). -/
def Obligations.StepKeepsRomProgramAndParameters : Prop :=
  ∀ s t : State, step s = .next t →
    t.rom = s.rom ∧ t.hprog = s.hprog ∧ t.params = s.params ∧ ∀ a, Memory.read t.rom a = Memory.read s.rom a

/-! ### Enabling -/

/-- R77: TICK is enabled where FAULT = 0, except where MAX_LATENCY = some L, a timer interrupt is pending and enabled and
LAT >= L. -/
def Obligations.TickEnabledExactlyWhen : Prop :=
  ∀ s : State, s.enabled .timer = true ↔
    s.fault = 0#3 ∧ ¬ (∃ l, s.params.maxLatency = some l ∧ s.ifFlag = true ∧ s.tie = true ∧ s.gie = true ∧ l ≤ s.lat)

/-- R79: VECTOR is enabled exactly where FAULT = 0 and a timer interrupt is pending and enabled or spurious vectors are
admitted. -/
def Obligations.VectorEnabledExactlyWhen : Prop :=
  ∀ s : State, s.enabled .sequencer = true ↔
    s.fault = 0#3 ∧ ((s.ifFlag = true ∧ s.tie = true ∧ s.gie = true) ∨ s.params.spuriousVectors = true)

/-- R90: when a host step is enabled; it fetches HPROG[HPC], decodes it as the host's and performs its rule; HPC advances unless
the step raised a fault. -/
def Obligations.HostStepEnabledAndPerformed : Prop :=
  (∀ s : State, s.enabled .host = true ↔
    s.fault = 0#3 ∧ s.hpc < s.hprog.length ∧ s.hwait = 0#16 ∧
      (s.params.strictPriority = false ∨ ¬ (s.ifFlag = true ∧ s.tie = true ∧ s.gie = true))) ∧
  (∀ (s : State) (w : OpWord) (i : Instr), s.enabled .host = true → s.hprog[s.hpc]? = some w → decode .host w = .ok i →
    ∃ t, exec i s = .next t ∧ agentStep .host s = .next t ∧
      (t.fault = 0#3 → t.hpc = s.hpc + 1) ∧ (t.fault ≠ 0#3 → t.hpc = s.hpc))

/-! ### Decoding and encoding -/

/-- R61–R64: the decoder reads back every instruction its agent may issue, with every operand at every value. -/
def Obligations.DecodeOfEncodeIsTheInstruction : Prop :=
  ∀ (a : Agent) (i : Instr), WellFormed a i = true → decode a (encode i) = .ok i

/-- R68: a word the decoder accepts is the one word of the instruction it stands for, which its agent may issue. -/
def Obligations.AcceptedWordIsTheEncoding : Prop :=
  ∀ (a : Agent) (w : OpWord) (i : Instr), decode a w = .ok i → encode i = w ∧ WellFormed a i = true

/-- R65, R66, R67: a reserved field, a must-be-zero bit and a host-issued event word are illegal. -/
def Obligations.ReservedWordsAreIllegal : Prop :=
  (∀ (a : Agent) (w : OpWord), rsvField w ≠ 0#4 → ∃ e, decode a w = .error e) ∧
  (∀ (a : Agent) (w : OpWord), dataField w &&& mbzMask (formOf (opcodeOf (opcField w))) ≠ 0#16 → ∃ e, decode a w = .error e) ∧
  (∀ w : OpWord, opcField w = 0xE#4 ∨ opcField w = 0xF#4 → ∃ e, decode .host w = .error e) ∧
  decode .host 0x300002#24 = .error .mustBeZero ∧ decode .host 0x100100#24 = .error .mustBeZero

/-- R74 and the decoding vectors of spec/95_test_vectors.md 2.1: words written out from the encoding. -/
def Obligations.SpecWordsDecode : Prop :=
  decode .host 0x000000#24 = .ok .nop ∧ decode .host 0x100000#24 = .ok (.wrIdx 0#8) ∧
  decode .host 0x20FF69#24 = .ok (.wrTmr 65385#16) ∧ decode .host 0x300001#24 = .ok (.wrEn true) ∧
  decode .host 0x300000#24 = .ok (.wrEn false) ∧ decode .host 0x70002B#24 = .ok (.wrDuty 0#2 43#8) ∧
  decode .host 0x7003FF#24 = .ok (.wrDuty 3#2 255#8) ∧ decode .host 0xB00000#24 = .ok .rdDuty ∧
  decode .host 0xD0FFFF#24 = .ok (.dly 65535#16) ∧ decode .timer 0xE00000#24 = .ok .tick ∧
  decode .sequencer 0xF00000#24 = .ok .vector ∧ decode .timer 0xE00001#24 = .error .notTheTickWord

/-- R71: an operation with its operand in range is assembled to the word (OPC << 20) | DATA, which decodes to it; an operand out of
range is an assembly error. -/
def Obligations.AssemblerMakesTheEncodedWord : Prop :=
  (∀ (o : Opcode) (n : Nat), n < operandCount (formOf o) →
    assembleOp o (some n) = some (encode (instrOf o (BitVec.ofNat 16 n))) ∧
    encode (instrOf o (BitVec.ofNat 16 n)) =
      ((opcodeBits o).setWidth 24 <<< 20 ||| (BitVec.ofNat 16 n).setWidth 24)) ∧
  (∀ (o : Opcode) (n : Nat), operandCount (formOf o) ≤ n → assembleOp o (some n) = none)

/-! ### TICK -/

/-- R76: TICK, with its encoding: the fault before any write, the running timer, the stopped timer. -/
def Obligations.TickEffect : Prop :=
  encode .tick = 0xE00000#24 ∧
  (∀ s : State, s.en = true → s.tmr = none →
    exec .tick s = .next { s with fault := s.fault ||| 0b010#3, hist := s.hist ++ [.fault .timer .uninit 1] }) ∧
  (∀ (s : State) (t : Word16), s.en = true → s.tmr = some t →
    exec .tick s = .next
      { s with hwait := if s.hwait = 0#16 then 0#16 else s.hwait - 1#16,
               lat := if s.ifFlag && s.tie && s.gie then s.lat + 1 else s.lat,
               ifFlag := s.ifFlag || decide (t = 0xFFFF#16),
               tmr := some (t + 1#16) }) ∧
  (∀ s : State, s.en = false →
    exec .tick s = .next
      { s with hwait := if s.hwait = 0#16 then 0#16 else s.hwait - 1#16,
               lat := if s.ifFlag && s.tie && s.gie then s.lat + 1 else s.lat })

/-- R25, R135: from a timer holding `v`, `n` running TICKs leave `v + n` modulo 2^16, and up to the count 65536 − v the flag is
newly set by exactly the last of them. -/
def Obligations.TimerOverflowsAfterItsInterval : Prop :=
  ∀ (s : State) (v : Word16) (n : Nat), s.en = true → s.tmr = some v → n ≤ 65536 - v.toNat →
    ∃ t, ticks n s = some t ∧ t.tmr = some (v + BitVec.ofNat 16 n) ∧ t.en = true ∧
      (t.ifFlag = true ↔ s.ifFlag = true ∨ n = 65536 - v.toNat)

/-! ### VECTOR -/

/-- R80, R81, R82: VECTOR, with its encoding: the guard on IF alone, the two faults before any write, and the service. -/
def Obligations.VectorEffect : Prop :=
  encode .vector = 0xF00000#24 ∧
  (∀ s : State, s.ifFlag = false → exec .vector s = .next s) ∧
  (∀ s : State, s.ifFlag = true → s.idx = none →
    exec .vector s = .next { s with fault := s.fault ||| 0b010#3, hist := s.hist ++ [.fault .sequencer .uninit 0] }) ∧
  (∀ (s : State) (i : Byte), s.ifFlag = true → s.idx = some i → 158 ≤ i.toNat →
    exec .vector s = .next
      { s with fault := s.fault ||| 0b001#3, hist := s.hist ++ [.fault .sequencer .oob i.toNat] }) ∧
  (∀ (s : State) (i : Byte) (h : i.toNat < 158), s.ifFlag = true → s.idx = some i →
    exec .vector s = .next
      { s with tmr := some s.params.reload,
               dutyLo := some (Memory.sample s.rom ⟨i.toNat, h⟩),
               hist := s.hist ++ [.sample i (Memory.sample s.rom ⟨i.toNat, h⟩),
                                  .dutyWrite .sequencer (Memory.sample s.rom ⟨i.toNat, h⟩) none],
               idx := some (i + 1#8),
               en := if i.toNat + 1 = 158 then false else s.en,
               ifFlag := false, lat := 0 })

/-- R84: the service clears EN in exactly the step whose increment makes IDX = 158, and leaves IDX there. -/
def Obligations.SelfDisarmExactlyAtTableEnd : Prop :=
  ∀ s t : State, s.en = true → exec .vector s = .next t →
    (t.en = false ↔ s.ifFlag = true ∧ s.idx = some 157#8) ∧ (t.en = false → t.idx = some 158#8)

/-- R86: what a VECTOR leaves alone, and the duty after a service: {DUTY_HI, ROM[i]}, which is ROM[i] only when DUTY_HI = 0. -/
def Obligations.ServiceLeavesAlone : Prop :=
  (∀ s t : State, exec .vector s = .next t →
    t.dutyHi = s.dutyHi ∧ t.tie = s.tie ∧ t.gie = s.gie ∧ t.oe = s.oe ∧ t.hpc = s.hpc ∧ t.hwait = s.hwait ∧
      ∀ a, Memory.read t.rom a = Memory.read s.rom a) ∧
  (∀ (s : State) (i : Byte) (h : i.toNat < 158) (hi : BitVec 2), s.ifFlag = true → s.idx = some i → s.dutyHi = some hi →
    ∃ t d, exec .vector s = .next t ∧ t.duty = some d ∧
      d.toNat = hi.toNat * 256 + (Memory.sample s.rom ⟨i.toNat, h⟩).toNat ∧
      (d.toNat = (Memory.sample s.rom ⟨i.toNat, h⟩).toNat ↔ hi = 0#2))

/-- R164: the service at index 157 writes ROM[157], makes the index 158 and clears EN in the same step; after it no step of TIMER or
SEQUENCER sets the flag, moves the index or plays a sample. -/
def Obligations.NothingPlaysAfterTheLastSample : Prop :=
  ∀ s t : State, s.ifFlag = true → s.idx = some 157#8 → exec .vector s = .next t →
    (t.dutyLo = some (Memory.sample s.rom (157 : Fin 158)) ∧ t.idx = some 158#8 ∧ t.en = false) ∧
    ∀ (as : List Agent) (u : State), (∀ a ∈ as, a ≠ .host) → agentSteps as t = some u →
      u.ifFlag = false ∧ u.en = false ∧ u.idx = some 158#8 ∧ u.tmr = t.tmr ∧ u.hist = t.hist

/-! ### The host's words -/

/-- R92: NOP writes HPC only; a word 0x00xxxx with a bit of DATA set is illegal. -/
def Obligations.NopEffect : Prop :=
  encode .nop = 0x000000#24 ∧
  (∀ s : State, exec .nop s = .next { s with hpc := s.hpc + 1 }) ∧
  (∀ d : Word16, d ≠ 0#16 → decode .host (packWord 0x0#4 d) = .error .mustBeZero)

/-- R93: WR_IDX writes any value as given; a value from 158 up makes the next servicing VECTOR raise F_OOB. -/
def Obligations.WrIdxEffect : Prop :=
  (∀ v : Byte, encode (.wrIdx v) = 0x100000#24 ||| v.setWidth 24) ∧
  (∀ (v : Byte) (s : State), exec (.wrIdx v) s = .next { s with idx := some v, hpc := s.hpc + 1 }) ∧
  (∀ (v : Byte) (s t u : State), 158 ≤ v.toNat → exec (.wrIdx v) s = .next t → t.ifFlag = true → exec .vector t = .next u →
    u.fault = t.fault ||| 0b001#3)

/-- R94: WR_TMR writes the timer and not IF; 0xFFFF with EN = 1 makes the next TICK overflow. -/
def Obligations.WrTmrEffect : Prop :=
  (∀ v : Word16, encode (.wrTmr v) = 0x200000#24 ||| v.setWidth 24) ∧
  (∀ (v : Word16) (s : State), exec (.wrTmr v) s = .next { s with tmr := some v, hpc := s.hpc + 1 }) ∧
  (∀ s t u : State, s.en = true → exec (.wrTmr 0xFFFF#16) s = .next t → exec .tick t = .next u →
    u.ifFlag = true ∧ u.tmr = some 0#16)

/-- R95: WR_EN writes EN; WR_EN 0 stops the timer and does not cancel a pending request, whose service plays one more sample; the
faults WR_EN 1 makes possible come at the TICK (TMR = ⊥) and at the service (IDX = 158). -/
def Obligations.WrEnEffect : Prop :=
  encode (.wrEn false) = 0x300000#24 ∧ encode (.wrEn true) = 0x300001#24 ∧
  (∀ (b : Bool) (s : State), exec (.wrEn b) s = .next { s with en := b, hpc := s.hpc + 1 }) ∧
  (∀ s t u : State, exec (.wrEn false) s = .next t → exec .tick t = .next u →
    t.ifFlag = s.ifFlag ∧ t.enabled .sequencer = s.enabled .sequencer ∧ u.tmr = s.tmr ∧ u.ifFlag = s.ifFlag) ∧
  (∀ (s t u : State) (i : Byte) (h : i.toNat < 158), s.ifFlag = true → s.idx = some i →
    exec (.wrEn false) s = .next t → exec .vector t = .next u →
      samplesOf u.hist = samplesOf s.hist ++ [(i, Memory.sample s.rom ⟨i.toNat, h⟩)] ∧ u.ifFlag = false) ∧
  (∀ s t u : State, s.tmr = none → exec (.wrEn true) s = .next t → exec .tick t = .next u →
    u.fault = s.fault ||| 0b010#3) ∧
  (∀ s t u : State, s.ifFlag = true → s.idx = some 158#8 → exec (.wrEn true) s = .next t → exec .vector t = .next u →
    u.fault = s.fault ||| 0b001#3)

/-- R96: WR_TIE writes TIE; setting it with IF = GIE = 1 enables VECTOR at once. -/
def Obligations.WrTieEffect : Prop :=
  encode (.wrTie false) = 0x400000#24 ∧ encode (.wrTie true) = 0x400001#24 ∧
  (∀ (b : Bool) (s : State), exec (.wrTie b) s = .next { s with tie := b, hpc := s.hpc + 1 }) ∧
  (∀ s t : State, s.fault = 0#3 → s.ifFlag = true → s.gie = true → exec (.wrTie true) s = .next t →
    t.enabled .sequencer = true)

/-- R97: WR_GIE writes GIE. With it cleared and no spurious vectors no service falls in a sequence of words: every agent's step but
the host's WR_GIE 1 keeps GIE = 0 and VECTOR not enabled, so no step of a run up to the next WR_GIE 1 is a service. -/
def Obligations.WrGieEffect : Prop :=
  encode (.wrGie false) = 0x500000#24 ∧ encode (.wrGie true) = 0x500001#24 ∧
  (∀ (b : Bool) (s : State), exec (.wrGie b) s = .next { s with gie := b, hpc := s.hpc + 1 }) ∧
  (∀ s t : State, s.params.spuriousVectors = false → exec (.wrGie false) s = .next t → t.enabled .sequencer = false) ∧
  (∀ (a : Agent) (s t : State), s.gie = false → s.params.spuriousVectors = false →
    (a = .host → NextWordIsNot (.wrGie true) s) → agentStep a s = .next t →
      a ≠ .sequencer ∧ t.gie = false ∧ t.params.spuriousVectors = false ∧ t.enabled .sequencer = false)

/-- R98: WR_OE writes OE and decides only whether the pin shows the PWM. -/
def Obligations.WrOeEffect : Prop :=
  encode (.wrOe false) = 0x600000#24 ∧ encode (.wrOe true) = 0x600001#24 ∧
  (∀ (b : Bool) (s : State), exec (.wrOe b) s = .next { s with oe := b, hpc := s.hpc + 1 }) ∧
  (∀ (b : Bool) (s t : State), exec (.wrOe b) s = .next t → t.pin = if b then .carrier s.duty else .undriven)

/-- R99: WR_DUTY writes both parts and logs one DutyWrite; 1024 has no word. -/
def Obligations.WrDutyEffect : Prop :=
  (∀ (hi : BitVec 2) (lo : Byte), encode (.wrDuty hi lo) = 0x700000#24 ||| (hi ++ lo).setWidth 24) ∧
  (∀ (hi : BitVec 2) (lo : Byte) (s : State),
    exec (.wrDuty hi lo) s = .next
      { s with dutyHi := some hi, dutyLo := some lo, hist := s.hist ++ [.dutyWrite .host lo (some hi)], hpc := s.hpc + 1 }) ∧
  assembleOp .wrDuty (some 1024) = none ∧ decode .host 0x700400#24 = .error .mustBeZero

/-- R100: WR_DUTYL writes the low part and logs it; DUTY_HI keeps its value, and where that is ⊥ a RD_DUTY faults. -/
def Obligations.WrDutylEffect : Prop :=
  (∀ lo : Byte, encode (.wrDutyl lo) = 0x800000#24 ||| lo.setWidth 24) ∧
  (∀ (lo : Byte) (s : State),
    exec (.wrDutyl lo) s = .next
      { s with dutyLo := some lo, hist := s.hist ++ [.dutyWrite .host lo none], hpc := s.hpc + 1 }) ∧
  (∀ (lo : Byte) (s t : State), s.dutyHi = none → exec (.wrDutyl lo) s = .next t →
    exec .rdDuty t = .next { t with fault := t.fault ||| 0b010#3, hist := t.hist ++ [.fault .host .uninit 7] })

/-- R101: RD_IDX logs the index, or raises F_UNINIT(0). -/
def Obligations.RdIdxEffect : Prop :=
  encode .rdIdx = 0x900000#24 ∧
  (∀ (s : State) (i : Byte), s.idx = some i →
    exec .rdIdx s = .next { s with hist := s.hist ++ [.hostRead .rdIdx (i.setWidth 16)], hpc := s.hpc + 1 }) ∧
  (∀ s : State, s.idx = none →
    exec .rdIdx s = .next { s with fault := s.fault ||| 0b010#3, hist := s.hist ++ [.fault .host .uninit 0] })

/-- R102: RD_TMR logs the timer, or raises F_UNINIT(1). -/
def Obligations.RdTmrEffect : Prop :=
  encode .rdTmr = 0xA00000#24 ∧
  (∀ (s : State) (v : Word16), s.tmr = some v →
    exec .rdTmr s = .next { s with hist := s.hist ++ [.hostRead .rdTmr v], hpc := s.hpc + 1 }) ∧
  (∀ s : State, s.tmr = none →
    exec .rdTmr s = .next { s with fault := s.fault ||| 0b010#3, hist := s.hist ++ [.fault .host .uninit 1] })

/-- R103: RD_DUTY logs DUTY_HI * 256 + DUTY_LO, or raises F_UNINIT(7) where either part is ⊥. -/
def Obligations.RdDutyEffect : Prop :=
  encode .rdDuty = 0xB00000#24 ∧
  (∀ (s : State) (hi : BitVec 2) (lo : Byte), s.dutyHi = some hi → s.dutyLo = some lo →
    ∃ v : Word16, v.toNat = hi.toNat * 256 + lo.toNat ∧
      exec .rdDuty s = .next { s with hist := s.hist ++ [.hostRead .rdDuty v], hpc := s.hpc + 1 }) ∧
  (∀ s : State, s.dutyHi = none ∨ s.dutyLo = none →
    exec .rdDuty s = .next { s with fault := s.fault ||| 0b010#3, hist := s.hist ++ [.fault .host .uninit 7] })

/-- R40, R104: RD_STATUS logs the view whose bits 0 to 4 are EN, IF, TIE, GIE, OE and whose other bits read 0; it never
faults. -/
def Obligations.RdStatusEffect : Prop :=
  encode .rdStatus = 0xC00000#24 ∧
  ∀ s : State, ∃ v : Word16,
    exec .rdStatus s = .next { s with hist := s.hist ++ [.hostRead .rdStatus v], hpc := s.hpc + 1 } ∧
    v.getLsbD 0 = s.en ∧ v.getLsbD 1 = s.ifFlag ∧ v.getLsbD 2 = s.tie ∧ v.getLsbD 3 = s.gie ∧ v.getLsbD 4 = s.oe ∧
    ∀ k, 5 ≤ k → v.getLsbD k = false

/-- R105: DLY n writes HWAIT; the host has no step while it is not 0; TICKs that do not fault count it down, whether EN is 0 or 1,
and after n of them it is 0; the delay masks no service. -/
def Obligations.DlyHoldsTheHostForItsTicks : Prop :=
  (∀ n : Word16, encode (.dly n) = 0xD00000#24 ||| n.setWidth 24) ∧
  (∀ (n : Word16) (s : State), exec (.dly n) s = .next { s with hwait := n, hpc := s.hpc + 1 }) ∧
  (∀ s : State, s.hwait ≠ 0#16 → s.enabled .host = false) ∧
  (∀ (n : Word16) (s : State), ({ s with hwait := n } : State).enabled .sequencer = s.enabled .sequencer) ∧
  (∀ (s : State) (k : Nat), s.en = false ∨ s.tmr ≠ none → k ≤ s.hwait.toNat →
    ∃ t, ticks k s = some t ∧ t.hwait.toNat = s.hwait.toNat - k)

/-- R34: DUTY = DUTY_HI * 256 + DUTY_LO, and it is ⊥ if either part is. -/
def Obligations.DutyValueFromItsParts : Prop :=
  (∀ (s : State) (hi : BitVec 2) (lo : Byte), s.dutyHi = some hi → s.dutyLo = some lo →
    ∃ d, s.duty = some d ∧ d.toNat = hi.toNat * 256 + lo.toNat) ∧
  (∀ s : State, s.dutyHi = none ∨ s.dutyLo = none → s.duty = none)

/-! ### Frames -/

/-- R35–R39, R41, R50, R117: which instructions may change each register of R39, each field of the model's bookkeeping and HIST; every
other instruction leaves it as it was. FAULT changes only where R117 lets it, HIST only grows, and ROM is never changed. -/
def Obligations.EachRegisterHasItsWriters : Prop :=
  ∀ (i : Instr) (s t : State), exec i s = .next t →
    (t.idx ≠ s.idx → i = .vector ∨ ∃ v, i = .wrIdx v) ∧
    (t.tmr ≠ s.tmr → i = .tick ∨ i = .vector ∨ ∃ v, i = .wrTmr v) ∧
    (t.en ≠ s.en → (i = .vector ∧ t.en = false) ∨ ∃ b, i = .wrEn b) ∧
    (t.ifFlag ≠ s.ifFlag → (i = .tick ∧ t.ifFlag = true) ∨ (i = .vector ∧ t.ifFlag = false)) ∧
    (t.tie ≠ s.tie → ∃ b, i = .wrTie b) ∧
    (t.gie ≠ s.gie → ∃ b, i = .wrGie b) ∧
    (t.oe ≠ s.oe → ∃ b, i = .wrOe b) ∧
    (t.dutyLo ≠ s.dutyLo → i = .vector ∨ (∃ hi lo, i = .wrDuty hi lo) ∨ ∃ lo, i = .wrDutyl lo) ∧
    (t.dutyHi ≠ s.dutyHi → ∃ hi lo, i = .wrDuty hi lo) ∧
    (t.hwait ≠ s.hwait → i = .tick ∨ ∃ n, i = .dly n) ∧
    (t.lat ≠ s.lat → i = .tick ∨ i = .vector) ∧
    (t.hpc ≠ s.hpc → i.issuer = .host) ∧
    (t.fault ≠ s.fault → i = .tick ∨ i = .vector ∨ i = .rdIdx ∨ i = .rdTmr ∨ i = .rdDuty) ∧
    (t.hist ≠ s.hist → (i = .tick ∧ s.en = true ∧ s.tmr = none) ∨ i = .vector ∨ (∃ hi lo, i = .wrDuty hi lo) ∨
      (∃ lo, i = .wrDutyl lo) ∨ i = .rdIdx ∨ i = .rdTmr ∨ i = .rdDuty ∨ i = .rdStatus) ∧
    (∃ es, t.hist = s.hist ++ es) ∧
    (∀ a, Memory.read t.rom a = Memory.read s.rom a)

/-- R112: no host operation writes IF, ROM, LAT, or FAULT but by raising a fault; HPC only advances by one or stays. Only VECTOR
clears IF, only TICK sets it, nothing writes ROM. -/
def Obligations.WhatTheHostCannotWrite : Prop :=
  (∀ (i : Instr) (s t : State), i.issuer = .host → exec i s = .next t →
    t.ifFlag = s.ifFlag ∧ t.lat = s.lat ∧ (∀ a, Memory.read t.rom a = Memory.read s.rom a) ∧
      ((t.fault = s.fault ∧ t.hpc = s.hpc + 1) ∨
        (t.hpc = s.hpc ∧ ∃ r, t.fault = s.fault ||| 0b010#3 ∧ t.hist = s.hist ++ [.fault .host .uninit r]))) ∧
  (∀ (i : Instr) (s t : State), exec i s = .next t → ∀ a, Memory.read t.rom a = Memory.read s.rom a) ∧
  (∀ (i : Instr) (s t : State), exec i s = .next t → s.ifFlag = true → t.ifFlag = false → i = .vector) ∧
  (∀ (i : Instr) (s t : State), exec i s = .next t → s.ifFlag = false → t.ifFlag = true → i = .tick)

/-- R52: a read changes nothing but HIST and HPC (and FAULT where it faults); a host write made twice leaves the state as once,
but for HIST and HPC. -/
def Obligations.ReadsHaveNoEffectAndWritesAreIdempotent : Prop :=
  (∀ (i : Instr) (s t : State), i = .rdIdx ∨ i = .rdTmr ∨ i = .rdDuty ∨ i = .rdStatus → exec i s = .next t →
    t = { s with hist := t.hist, hpc := t.hpc, fault := t.fault }) ∧
  (∀ (i : Instr) (s t u : State), i.issuer = .host → i ≠ .rdIdx → i ≠ .rdTmr → i ≠ .rdDuty → i ≠ .rdStatus →
    exec i s = .next t → exec i t = .next u → u = { t with hist := u.hist, hpc := u.hpc })

/-- R31, R40, R104: the output enable influences no other state, and only RD_STATUS sees it (log entry 16, DEDUCED: R98's "no step
reads it" set against R104). No agent's enabling depends on OE; WR_OE gives the same next state whatever OE was; RD_STATUS run
with OE changed gives the same next state but for OE and the one event it logs, whose value may differ in bit 4 alone; every other
instruction gives the same next state but for OE. -/
def Obligations.OutputEnableIsSeenByRdStatusAlone : Prop :=
  (∀ (i : Instr) (s t : State) (b : Bool), i ≠ .rdStatus → (∀ c, i ≠ .wrOe c) → exec i s = .next t →
    exec i { s with oe := b } = .next { t with oe := b }) ∧
  (∀ (c b : Bool) (s : State), exec (.wrOe c) { s with oe := b } = exec (.wrOe c) s) ∧
  (∀ (s t : State) (b : Bool), exec .rdStatus s = .next t →
    ∃ v w : Word16, t.hist = s.hist ++ [.hostRead .rdStatus v] ∧
      exec .rdStatus { s with oe := b } = .next { t with oe := b, hist := s.hist ++ [.hostRead .rdStatus w] } ∧
      ∀ k, k ≠ 4 → w.getLsbD k = v.getLsbD k) ∧
  (∀ (s : State) (b : Bool) (a : Agent), ({ s with oe := b } : State).enabled a = s.enabled a)

/-! ### Faults -/

/-- R118: `raise` sets the fault's bit, logs the event and writes nothing else; no agent has a step in a state with
FAULT ≠ 0. -/
def Obligations.RaiseWritesOnlyFaultAndHistory : Prop :=
  (∀ (s : State) (a : Agent) (n : Nat),
    s.raise a .oob n = { s with fault := s.fault ||| 0b001#3, hist := s.hist ++ [.fault a .oob n] } ∧
    s.raise a .uninit n = { s with fault := s.fault ||| 0b010#3, hist := s.hist ++ [.fault a .uninit n] } ∧
    s.raise a .illegal n = { s with fault := s.fault ||| 0b100#3, hist := s.hist ++ [.fault a .illegal n] }) ∧
  (∀ (s : State) (a : Agent), s.fault ≠ 0#3 → s.enabled a = false ∧ ∀ t, agentStep a s ≠ .next t)

/-- R91, R127: an enabled host word that decodes to ILLEGAL raises F_ILLEGAL with the word as info, whatever the registers hold; it
writes no register and does not advance HPC. -/
def Obligations.IllegalHostWordRaises : Prop :=
  ∀ (s : State) (w : OpWord) (e : Illegal), s.enabled .host = true → s.hprog[s.hpc]? = some w → decode .host w = .error e →
    agentStep .host s = .next
      { s with fault := s.fault ||| 0b100#3, hist := s.hist ++ [.fault .host .illegal w.toNat] }

/-- R117: which steps can raise which fault. From FAULT = 0, an agent's step that ends with FAULT ≠ 0 is one of the listed ones with
the listed cause. -/
def Obligations.OnlyTheseStepsFault : Prop :=
  ∀ (a : Agent) (s t : State), agentStep a s = .next t → t.fault ≠ 0#3 →
    (a = .timer ∧ t.fault = 0b010#3 ∧ s.en = true ∧ s.tmr = none) ∨
    (a = .sequencer ∧ s.ifFlag = true ∧ t.fault = 0b010#3 ∧ s.idx = none) ∨
    (a = .sequencer ∧ s.ifFlag = true ∧ t.fault = 0b001#3 ∧ ∃ i, s.idx = some i ∧ 158 ≤ i.toNat) ∨
    (a = .host ∧ t.fault = 0b100#3 ∧ ∃ w e, s.hprog[s.hpc]? = some w ∧ decode .host w = .error e) ∨
    (a = .host ∧ t.fault = 0b010#3 ∧ ∃ w i, s.hprog[s.hpc]? = some w ∧ decode .host w = .ok i ∧
      ((i = .rdIdx ∧ s.idx = none) ∨ (i = .rdTmr ∧ s.tmr = none) ∨ (i = .rdDuty ∧ s.duty = none)))

/-- R119: faults are precise and sticky: an agent's step that ends with FAULT ≠ 0 leaves the state before it plus FAULT and one Fault
event, and is the last step of the run; so no step clears FAULT. -/
def Obligations.FaultsArePrecise : Prop :=
  (∀ (a : Agent) (s t : State), agentStep a s = .next t → t.fault ≠ 0#3 →
    (∃ c n, t = { s with fault := faultBit c, hist := s.hist ++ [.fault a c n] }) ∧
      ∀ (b : Agent) (u : State), agentStep b t ≠ .next u) ∧
  (∀ (i : Instr) (s t : State), exec i s = .next t → s.fault &&& t.fault = s.fault)

/-- R35, R118, R119: every step keeps the fault record: FAULT is 0 and no Fault event is logged, or FAULT is one bit and the last
event, the only Fault event, is that fault. -/
def Obligations.FaultRecordInvariant : Prop :=
  ∀ s t : State, FaultRecorded s → step s = .next t → FaultRecorded t

/-- R42: the launch state, for every choice of parameters and program, meets the three invariants, and its memory is in the
model's canonical form. -/
def Obligations.LaunchMeetsTheInvariants : Prop :=
  ∀ (p : Config.Params) (prog : List OpWord),
    FaultRecorded (State.launch p prog) ∧ IndexInRange (State.launch p prog) ∧ LatencyBounded (State.launch p prog) ∧
      Memory.wf (State.launch p prog).rom = true

/-! ### Invariants and playback -/

/-- R24, R161: where every write to IDX the host program holds is in [0, 158], every step keeps IDX ⊥ or in [0, 158]. -/
def Obligations.IndexRangeInvariant : Prop :=
  ∀ s t : State, IndexWritesInRange s ∧ IndexInRange s → step s = .next t → IndexWritesInRange t ∧ IndexInRange t

/-- R126: with MAX_LATENCY = some L every step keeps LAT at most L. -/
def Obligations.LatencyBoundInvariant : Prop :=
  ∀ s t : State, LatencyBounded s → step s = .next t → LatencyBounded t

/-- R78, R126: under a latency bound below 65536, with both enables set, TIMER and SEQUENCER steps keep a pending service younger than
one turn of the timer, and no running TICK overflows while a request is pending: no overflow is lost. -/
def Obligations.BoundedLatencyLosesNoOverflow : Prop :=
  ∀ (a : Agent) (s t : State), NoOverflowLost s → a ≠ .host → agentStep a s = .next t →
    NoOverflowLost t ∧ ¬ (a = .timer ∧ s.en = true ∧ s.ifFlag = true ∧ s.tmr = some 0xFFFF#16)

/-- R83, R84, R162 (the part that holds of every run, fair or not): during a playback each step plays the next table entry or
none, whatever the latencies, as long as no host word writes IDX, TMR, EN, TIE or GIE. -/
def Obligations.PlaybackFollowsTheTable : Prop :=
  ∀ (h0 : List Event) (k : Nat) (a : Agent) (s t : State), PlaybackAt h0 k s → (a = .host → HostLeavesPlayback s) →
    agentStep a s = .next t →
      PlaybackAt h0 k t ∨ (PlaybackAt h0 (k + 1) t ∧ a = .sequencer ∧ s.ifFlag = true)

/-- R162 with every service taken as soon as it is enabled: from an armed state, 158 rounds of one sample interval and one service
play the whole table in order and leave EN = 0, IF = 0, IDX = 158, TMR = RELOAD, DUTY_LO = ROM[157]. -/
def Obligations.ServedAtOncePlaysTheWholeTable : Prop :=
  ∀ s : State, s.fault = 0#3 → s.en = true → s.ifFlag = false → s.tie = true → s.gie = true → s.idx = some 0#8 →
    s.tmr = some s.params.reload →
    ∃ t, agentSteps (List.replicate 158 (playRound s.params)).flatten s = some t ∧
      samplesOf t.hist = samplesOf s.hist ++ tableUpTo s.rom 158 ∧
      t.en = false ∧ t.ifFlag = false ∧ t.idx = some 158#8 ∧ t.tmr = some s.params.reload ∧
      t.dutyLo = some (Memory.sample s.rom (157 : Fin 158)) ∧ t.fault = 0#3

/-- R160, R162: in every weakly fair run from an armed state in which no host write to IDX, TMR, EN, TIE or GIE falls before the
self-disarm, the whole table is played, in order, and the run reaches EN = 0, IF = 0, IDX = 158, TMR = RELOAD,
DUTY_LO = ROM[157]. -/
def Obligations.FairRunPlaysTheWholeTable : Prop :=
  ∀ (st : Nat → State) (ag : Nat → Agent), IsRun st ag → WeaklyFair st ag →
    (st 0).en = true → (st 0).ifFlag = false → (st 0).tie = true → (st 0).gie = true → (st 0).idx = some 0#8 →
    (st 0).tmr = some (st 0).params.reload →
    (∀ n, (∀ m, m ≤ n → (st m).en = true) → ag n = .host → HostLeavesPlayback (st n)) →
    ∃ n, samplesOf (st n).hist = samplesOf (st 0).hist ++ tableUpTo (st 0).rom 158 ∧
      (st n).en = false ∧ (st n).ifFlag = false ∧ (st n).idx = some 158#8 ∧ (st n).tmr = some (st 0).params.reload ∧
      (st n).dutyLo = some (Memory.sample (st 0).rom (157 : Fin 158))

/-- R163: the values the service writes into the duty register are the values of the samples it plays: every step keeps the two
sequences of HIST equal. -/
def Obligations.ServiceDutiesAreTheSamples : Prop :=
  ∀ s t : State, serviceDuties s.hist = (samplesOf s.hist).map Prod.snd → step s = .next t →
    serviceDuties t.hist = (samplesOf t.hist).map Prod.snd

/-- R158: a final state's five conditions; TICK changes nothing there and a spurious VECTOR is a no-op. -/
def Obligations.FinalStatesAreStable : Prop :=
  (∀ s : State, Final s ↔
    s.fault = 0#3 ∧ s.hpc = s.hprog.length ∧ s.hwait = 0#16 ∧ s.en = false ∧ s.ifFlag = false) ∧
  (∀ s : State, Final s → exec .tick s = .next s ∧ exec .vector s = .next s ∧ s.enabled .host = false) ∧
  (∀ (s t : State) (a : Agent), Final s → agentStep a s = .next t → t = s)

/-! ### The pseudo-instructions -/

/-- R72, R107: ARM's three words leave IDX = 0, TMR = RELOAD and EN = 1, and nothing else changed but HPC; here the effects one after
another, without their enabling (log entry 14). -/
def Obligations.ArmSetsIndexTimerEnable : Prop :=
  (∀ p : Config.Params, (expand p .arm).map encode =
    [0x100000#24, 0x200000#24 ||| p.reload.setWidth 24, 0x300001#24]) ∧
  (∀ s : State, execAll (expand s.params .arm) s =
    some { s with idx := some 0#8, tmr := some s.params.reload, en := true, hpc := s.hpc + 3 })

/-- R113: while EN = 0 and IF = 0 no step of TIMER or SEQUENCER changes anything but the host delay. So where the host program holds
ARM's three words from HPC on, a run that takes them, with any TIMER and SEQUENCER steps between them, has the effect of one step:
IDX = 0, TMR = RELOAD, EN = 1, HPC three further, nothing else changed. Such a run completes where the host is enabled, with any
TICKs and any spurious entries the parameters admit between the words. -/
def Obligations.ArmIsAtomicInEffect : Prop :=
  (∀ (as : List Agent) (s t : State), s.en = false → s.ifFlag = false → (∀ a ∈ as, a ≠ .host) → agentSteps as s = some t →
    t = { s with hwait := t.hwait }) ∧
  (∀ (as bs : List Agent) (s t : State), s.en = false → s.ifFlag = false → HoldsFromHpc (expand s.params .arm) s →
    (∀ a ∈ as ++ bs, a ≠ .host) → agentSteps (.host :: (as ++ .host :: (bs ++ [.host]))) s = some t →
      t = { s with idx := some 0#8, tmr := some s.params.reload, en := true, hpc := s.hpc + 3 }) ∧
  (∀ (as bs : List Agent) (s : State), s.en = false → s.ifFlag = false → HoldsFromHpc (expand s.params .arm) s →
    s.enabled .host = true → (∀ a ∈ as ++ bs, a = .timer ∨ (a = .sequencer ∧ s.params.spuriousVectors = true)) →
      ∃ t, agentSteps (.host :: (as ++ .host :: (bs ++ [.host]))) s = some t)

/-- R72, R147: a host program that starts with INIT's seven words. With RESET_IF = false, in every run from the launch state, whatever
TICKs and spurious entries fall between and after the words, the unfaulted state in which the host has taken INIT's words and no more has
DUTY = BASELINE, both enables and the driver set, EN = IF = 0 and nothing played, and a RD_DUTY as the next word then logs
BASELINE. The seven host steps complete in a row where RESET_IF or STRICT_PRIORITY is false. With RESET_IF = true the first four
enable VECTOR, and a VECTOR then raises F_UNINIT(0). -/
def Obligations.InitLeavesTheBaselineDuty : Prop :=
  (∀ (p : Config.Params) (prog : List OpWord) (as : List Agent) (t : State), p.resetIf = false →
    HoldsFromHpc (expand p .init) (State.launch p prog) → agentSteps as (State.launch p prog) = some t → t.hpc = 7 →
      t.fault = 0#3 →
      t.duty = some p.baseline ∧ t.tie = true ∧ t.gie = true ∧ t.oe = true ∧ t.en = false ∧ t.ifFlag = false ∧
      samplesOf t.hist = [] ∧
      (prog[7]? = some 0xB00000#24 → agentStep .host t = .next
        { t with hist := t.hist ++ [.hostRead .rdDuty (p.baseline.setWidth 16)], hpc := 8 })) ∧
  (∀ (p : Config.Params) (prog : List OpWord), p.resetIf = false ∨ p.strictPriority = false →
    HoldsFromHpc (expand p .init) (State.launch p prog) →
      ∃ t, agentSteps (List.replicate 7 .host) (State.launch p prog) = some t ∧ t.hpc = 7 ∧ t.duty = some p.baseline ∧
        t.tie = true ∧ t.gie = true ∧ t.oe = true ∧ t.en = false) ∧
  (∀ (p : Config.Params) (prog : List OpWord), p.resetIf = true →
    HoldsFromHpc (expand p .init) (State.launch p prog) →
      ∃ t u, agentSteps (List.replicate 4 .host) (State.launch p prog) = some t ∧ agentStep .sequencer t = .next u ∧
        u = { t with fault := 0b010#3, hist := t.hist ++ [.fault .sequencer .uninit 0] })

/-- R72: DLYL n is delays of 65535 and then the remainder: its words are DLY words, none of them DLY 0, and their delays sum
to n. -/
def Obligations.DlylDelaysSumToItsOperand : Prop :=
  (∀ n : Nat, ∃ ds : List Word16, expandDlyl n = ds.map Instr.dly ∧ (ds.map BitVec.toNat).sum = n ∧
    (∀ d ∈ ds, d ≠ 0#16) ∧ ds.length = n / 65535 + (if n % 65535 = 0 then 0 else 1)) ∧
  (expandDlyl 7984000).map encode = List.replicate 121 0xD0FFFF#24 ++ [0xD0D3F9#24]
end

