-- ==== Sys2Proof/Laws/Decode.lean ====
section
/-!
SUPPORT. The fields of a packed word, the operand forms, and what the decoder can answer.
-/

namespace Sys2Proof

@[simp] theorem opcField_packWord (c : BitVec 4) (d : Word16) : opcField (packWord c d) = c := by
  ext i hi
  simp only [opcField, packWord, BitVec.getElem_extractLsb', BitVec.getLsbD_append]
  have h1 : ¬ (20 + i < 16) := by omega
  have h2 : ¬ (20 + i - 16 < 4) := by omega
  have h3 : 20 + i - 16 - 4 = i := by omega
  simp only [h1, h2, h3, if_false]
  rw [BitVec.getLsbD_eq_getElem hi]

@[simp] theorem rsvField_packWord (c : BitVec 4) (d : Word16) : rsvField (packWord c d) = 0#4 := by
  ext i hi
  simp only [rsvField, packWord, BitVec.getElem_extractLsb', BitVec.getLsbD_append]
  have h1 : ¬ (16 + i < 16) := by omega
  have h3 : 16 + i - 16 = i := by omega
  simp [h1, h3, hi]

@[simp] theorem dataField_packWord (c : BitVec 4) (d : Word16) : dataField (packWord c d) = d := by
  ext i hi
  simp only [dataField, packWord, BitVec.getElem_extractLsb', BitVec.getLsbD_append]
  simp [hi]

/-- A word is its three fields (R61). -/
theorem fields_append (w : OpWord) : opcField w ++ rsvField w ++ dataField w = w := by
  ext i hi
  rw [← BitVec.getLsbD_eq_getElem, ← BitVec.getLsbD_eq_getElem]
  simp only [opcField, rsvField, dataField, BitVec.getLsbD_append, BitVec.getLsbD_extractLsb']
  by_cases h1 : i < 16
  · simp [h1]
  · by_cases h2 : i < 20
    · have : i - 16 < 4 := by omega
      have h3 : 16 + (i - 16) = i := by omega
      simp [h1, this, h3]
    · have h4 : ¬ (i - 16 < 4) := by omega
      have h5 : i - 16 - 4 < 4 := by omega
      have h6 : 20 + (i - 16 - 4) = i := by omega
      simp [h1, h4, h5, h6]

/-- A word whose reserved field is 0 is packed from its opcode and DATA. -/
theorem packWord_fields {w : OpWord} (h : rsvField w = 0#4) : packWord (opcField w) (dataField w) = w := by
  have := fields_append w
  rw [h] at this
  exact this

@[simp] theorem opcodeOf_opcodeBits (o : Opcode) : opcodeOf (opcodeBits o) = o := by
  cases o <;> rfl

theorem opcodeBits_opcodeOf (c : BitVec 4) : opcodeBits (opcodeOf c) = c := by
  revert c; decide

@[simp] theorem operandBit_bitData (b : Bool) : operandBit (bitData b) = b := by
  cases b <;> rfl

@[simp] theorem operandByte_byteData (v : Byte) : operandByte (byteData v) = v := by
  revert v; decide

@[simp] theorem bitData_mbz (b : Bool) : bitData b &&& 0xFFFE#16 = 0#16 := by
  cases b <;> rfl

theorem getLsbD_bitData (b : Bool) (i : Nat) : (bitData b).getLsbD i = (decide (i = 0) && b) := by
  simp only [bitData, BitVec.getLsbD_append]
  by_cases h : i = 0
  · subst h; simp
  · have h1 : ¬ (i < 1) := by omega
    simp only [h, h1, if_false, decide_false, Bool.false_and]
    exact BitVec.getLsbD_zero

theorem getLsbD_byteData (v : Byte) (i : Nat) : (byteData v).getLsbD i = (decide (i < 8) && v.getLsbD i) := by
  simp only [byteData, BitVec.getLsbD_append]
  by_cases h : i < 8
  · simp [h]
  · simp only [h, if_false, decide_false, Bool.false_and]
    exact BitVec.getLsbD_zero

theorem getLsbD_dutyData (hi : BitVec 2) (lo : Byte) (i : Nat) :
    (dutyData hi lo).getLsbD i = if i < 8 then lo.getLsbD i else hi.getLsbD (i - 8) := by
  simp only [dutyData, BitVec.getLsbD_append]
  by_cases h : i < 8
  · simp [h]
  · by_cases h2 : i - 8 < 2
    · simp [h, h2]
    · simp only [h, h2, if_false]
      rw [BitVec.getLsbD_zero, BitVec.getLsbD_of_ge _ _ (by omega)]

theorem getLsbD_byteMask (i : Nat) : (0xFF00#16).getLsbD i = decide (8 ≤ i ∧ i < 16) := by
  by_cases h : i < 16
  · have : ∀ j : Fin 16, (0xFF00#16).getLsbD j.val = decide (8 ≤ j.val ∧ j.val < 16) := by decide
    exact this ⟨i, h⟩
  · rw [BitVec.getLsbD_of_ge _ _ (by omega)]
    simp; omega

theorem getLsbD_dutyMask (i : Nat) : (0xFC00#16).getLsbD i = decide (10 ≤ i ∧ i < 16) := by
  by_cases h : i < 16
  · have : ∀ j : Fin 16, (0xFC00#16).getLsbD j.val = decide (10 ≤ j.val ∧ j.val < 16) := by decide
    exact this ⟨i, h⟩
  · rw [BitVec.getLsbD_of_ge _ _ (by omega)]
    simp; omega

theorem getLsbD_bitMask (i : Nat) : (0xFFFE#16).getLsbD i = decide (1 ≤ i ∧ i < 16) := by
  by_cases h : i < 16
  · have : ∀ j : Fin 16, (0xFFFE#16).getLsbD j.val = decide (1 ≤ j.val ∧ j.val < 16) := by decide
    exact this ⟨i, h⟩
  · rw [BitVec.getLsbD_of_ge _ _ (by omega)]
    simp; omega

@[simp] theorem byteData_mbz (v : Byte) : byteData v &&& 0xFF00#16 = 0#16 := by
  revert v; decide

@[simp] theorem operandHigh_dutyData (hi : BitVec 2) (lo : Byte) : operandHigh (dutyData hi lo) = hi := by
  ext i h
  simp only [operandHigh, dutyData, BitVec.getElem_extractLsb', BitVec.getLsbD_append]
  have h1 : ¬ (8 + i < 8) := by omega
  have h3 : 8 + i - 8 = i := by omega
  simp [h1, h3, h]

@[simp] theorem operandByte_dutyData (hi : BitVec 2) (lo : Byte) : operandByte (dutyData hi lo) = lo := by
  ext i h
  simp only [operandByte, dutyData, BitVec.getElem_extractLsb', BitVec.getLsbD_append, Nat.zero_add]
  simp only [h, if_true]
  rw [BitVec.getLsbD_eq_getElem h]

@[simp] theorem dutyData_mbz (hi : BitVec 2) (lo : Byte) : dutyData hi lo &&& 0xFC00#16 = 0#16 := by
  ext i h
  rw [← BitVec.getLsbD_eq_getElem, BitVec.getLsbD_and, getLsbD_dutyMask, getLsbD_dutyData]
  by_cases h10 : 10 ≤ i
  · have h1 : ¬ (i < 8) := by omega
    rw [if_neg h1, BitVec.getLsbD_of_ge _ _ (by omega)]
    simp
  · simp [h10]

/-- The DATA of form b1 whose must-be-zero bits are 0 is its one operand bit (R62). -/
theorem bitData_operandBit {d : Word16} (h : d &&& 0xFFFE#16 = 0#16) : bitData (operandBit d) = d := by
  ext i hi
  have hb := congrArg (fun v => BitVec.getLsbD v i) h
  simp only [BitVec.getLsbD_and, getLsbD_bitMask, BitVec.getLsbD_zero] at hb
  rw [← BitVec.getLsbD_eq_getElem, ← BitVec.getLsbD_eq_getElem, getLsbD_bitData]
  by_cases h0 : i = 0
  · subst h0; simp [operandBit]
  · have h2 : 1 ≤ i ∧ i < 16 := by omega
    rw [decide_eq_true h2, Bool.and_true] at hb
    rw [hb]; simp [h0]

/-- The DATA of form u8 whose must-be-zero bits are 0 is its operand byte (R62). -/
theorem byteData_operandByte {d : Word16} (h : d &&& 0xFF00#16 = 0#16) : byteData (operandByte d) = d := by
  ext i hi
  have hb := congrArg (fun v => BitVec.getLsbD v i) h
  simp only [BitVec.getLsbD_and, getLsbD_byteMask, BitVec.getLsbD_zero] at hb
  rw [← BitVec.getLsbD_eq_getElem, ← BitVec.getLsbD_eq_getElem, getLsbD_byteData]
  by_cases h0 : i < 8
  · simp [h0, operandByte]
  · have h2 : 8 ≤ i ∧ i < 16 := by omega
    rw [decide_eq_true h2, Bool.and_true] at hb
    rw [hb]; simp [h0]

/-- The DATA of form u10 whose must-be-zero bits are 0 is its two operand parts (R62). -/
theorem dutyData_operands {d : Word16} (h : d &&& 0xFC00#16 = 0#16) :
    dutyData (operandHigh d) (operandByte d) = d := by
  ext i hi
  have hb := congrArg (fun v => BitVec.getLsbD v i) h
  simp only [BitVec.getLsbD_and, getLsbD_dutyMask, BitVec.getLsbD_zero] at hb
  rw [← BitVec.getLsbD_eq_getElem, ← BitVec.getLsbD_eq_getElem, getLsbD_dutyData]
  by_cases h0 : i < 8
  · simp [h0, operandByte]
  · rw [if_neg h0]
    by_cases h1 : i < 10
    · have h2 : i - 8 < 2 := by omega
      have h3 : 8 + (i - 8) = i := by omega
      simp [operandHigh, h2, h3]
    · have h2 : 10 ≤ i ∧ i < 16 := by omega
      rw [decide_eq_true h2, Bool.and_true] at hb
      rw [hb, BitVec.getLsbD_of_ge _ _ (by omega)]

/-- The operation selected by an instruction's name and DATA is the instruction. -/
@[simp] theorem instrOf_opcode_data (i : Instr) : instrOf i.opcode i.data = i := by
  cases i <;> simp [Instr.opcode, Instr.data, instrOf]

theorem and_noneMask (d : Word16) : d &&& 0xFFFF#16 = d := by
  ext i hi
  have h : ∀ j : Fin 16, (0xFFFF#16).getLsbD j.val = true := by decide
  rw [← BitVec.getLsbD_eq_getElem, BitVec.getLsbD_and, h ⟨i, hi⟩, Bool.and_true, ← BitVec.getLsbD_eq_getElem]

/-- A DATA whose must-be-zero bits are 0 is that of the operation it selects (R62). -/
theorem data_instrOf {o : Opcode} {d : Word16} (h : d &&& mbzMask (formOf o) = 0#16) :
    (instrOf o d).data = d ∧ (instrOf o d).opcode = o := by
  cases o <;> simp only [formOf, mbzMask, and_noneMask] at h <;>
    simp [instrOf, Instr.data, Instr.opcode, h, bitData_operandBit, byteData_operandByte, dutyData_operands]

/-- A word is its opcode in bits 23:20 and its DATA in bits 15:0 (R61, R71). -/
theorem packWord_or (c : BitVec 4) (d : Word16) : packWord c d = (c.setWidth 24 <<< 20 ||| d.setWidth 24) := by
  ext i hi
  rw [← BitVec.getLsbD_eq_getElem, ← BitVec.getLsbD_eq_getElem]
  simp only [packWord, BitVec.getLsbD_append, BitVec.getLsbD_or, BitVec.getLsbD_shiftLeft, BitVec.getLsbD_setWidth]
  by_cases h1 : i < 16
  · have h2 : i < 20 := by omega
    simp [h1, h2, hi]
  · rw [BitVec.getLsbD_of_ge d i (by omega)]
    by_cases h2 : i < 20
    · have h3 : i - 16 < 4 := by omega
      simp [h1, h2, h3]
    · have h3 : ¬ (i - 16 < 4) := by omega
      have h4 : i - 16 - 4 = i - 20 := by omega
      have h5 : i - 20 < 24 := by omega
      simp [h1, h2, h3, h4, hi, h5]

/-- What the decoder accepts, test by test (R64). -/
theorem decode_ok_iff (a : Agent) (w : OpWord) (i : Instr) :
    decode a w = .ok i ↔
      rsvField w = 0#4 ∧ ¬ (a = .host ∧ (opcField w = 0xE#4 ∨ opcField w = 0xF#4)) ∧
        ¬ (a = .timer ∧ w ≠ tickWord) ∧ ¬ (a = .sequencer ∧ w ≠ vectorWord) ∧
        dataField w &&& mbzMask (formOf (opcodeOf (opcField w))) = 0#16 ∧
        instrOf (opcodeOf (opcField w)) (dataField w) = i := by
  unfold decode
  by_cases h1 : rsvField w = 0#4 <;> by_cases h2 : a = .host ∧ (opcField w = 0xE#4 ∨ opcField w = 0xF#4) <;>
    by_cases h3 : a = .timer ∧ w ≠ tickWord <;> by_cases h4 : a = .sequencer ∧ w ≠ vectorWord <;>
    by_cases h5 : dataField w &&& mbzMask (formOf (opcodeOf (opcField w))) = 0#16 <;>
    simp [h1, h2, h3, h4, h5]

/-- An opcode that is no event's selects a host operation (R63, R67). -/
theorem issuer_instrOf {c : BitVec 4} (h : ¬ (c = 0xE#4 ∨ c = 0xF#4)) (d : Word16) :
    (instrOf (opcodeOf c) d).issuer = .host := by
  have hn : opcodeOf c ≠ .tick ∧ opcodeOf c ≠ .vector := by revert c; decide
  cases ho : opcodeOf c <;> simp_all [instrOf, Instr.issuer]

/-- A host word decodes to a host operation (R67). -/
theorem issuer_of_decode_host {w : OpWord} {i : Instr} (h : decode .host w = .ok i) : i.issuer = .host := by
  obtain ⟨_, h2, _, _, _, rfl⟩ := (decode_ok_iff _ _ _).mp h
  exact issuer_instrOf (by simpa using h2) _

end Sys2Proof
end

