-- ==== Sys2Proof/Laws/State.lean ====
section
/-!
SUPPORT. Each field of the state after each update of Ops.lean: what the update writes, and that it writes nothing else.
-/

namespace Sys2Proof.Machine

/-! ### State.setIdx -/

@[simp] theorem State.setIdx_params (s : State) (v : Byte) : (s.setIdx v).params = s.params := rfl
@[simp] theorem State.setIdx_rom (s : State) (v : Byte) : (s.setIdx v).rom = s.rom := rfl
@[simp] theorem State.setIdx_hprog (s : State) (v : Byte) : (s.setIdx v).hprog = s.hprog := rfl
@[simp] theorem State.setIdx_idx (s : State) (v : Byte) : (s.setIdx v).idx = some v := rfl
@[simp] theorem State.setIdx_tmr (s : State) (v : Byte) : (s.setIdx v).tmr = s.tmr := rfl
@[simp] theorem State.setIdx_en (s : State) (v : Byte) : (s.setIdx v).en = s.en := rfl
@[simp] theorem State.setIdx_ifFlag (s : State) (v : Byte) : (s.setIdx v).ifFlag = s.ifFlag := rfl
@[simp] theorem State.setIdx_tie (s : State) (v : Byte) : (s.setIdx v).tie = s.tie := rfl
@[simp] theorem State.setIdx_gie (s : State) (v : Byte) : (s.setIdx v).gie = s.gie := rfl
@[simp] theorem State.setIdx_oe (s : State) (v : Byte) : (s.setIdx v).oe = s.oe := rfl
@[simp] theorem State.setIdx_dutyLo (s : State) (v : Byte) : (s.setIdx v).dutyLo = s.dutyLo := rfl
@[simp] theorem State.setIdx_dutyHi (s : State) (v : Byte) : (s.setIdx v).dutyHi = s.dutyHi := rfl
@[simp] theorem State.setIdx_fault (s : State) (v : Byte) : (s.setIdx v).fault = s.fault := rfl
@[simp] theorem State.setIdx_hist (s : State) (v : Byte) : (s.setIdx v).hist = s.hist := rfl
@[simp] theorem State.setIdx_hpc (s : State) (v : Byte) : (s.setIdx v).hpc = s.hpc := rfl
@[simp] theorem State.setIdx_hwait (s : State) (v : Byte) : (s.setIdx v).hwait = s.hwait := rfl
@[simp] theorem State.setIdx_lat (s : State) (v : Byte) : (s.setIdx v).lat = s.lat := rfl
@[simp] theorem State.setIdx_sched (s : State) (v : Byte) : (s.setIdx v).sched = s.sched := rfl
@[simp] theorem State.setIdx_turn (s : State) (v : Byte) : (s.setIdx v).turn = s.turn := rfl

/-! ### State.setTmr -/

@[simp] theorem State.setTmr_params (s : State) (v : Word16) : (s.setTmr v).params = s.params := rfl
@[simp] theorem State.setTmr_rom (s : State) (v : Word16) : (s.setTmr v).rom = s.rom := rfl
@[simp] theorem State.setTmr_hprog (s : State) (v : Word16) : (s.setTmr v).hprog = s.hprog := rfl
@[simp] theorem State.setTmr_idx (s : State) (v : Word16) : (s.setTmr v).idx = s.idx := rfl
@[simp] theorem State.setTmr_tmr (s : State) (v : Word16) : (s.setTmr v).tmr = some v := rfl
@[simp] theorem State.setTmr_en (s : State) (v : Word16) : (s.setTmr v).en = s.en := rfl
@[simp] theorem State.setTmr_ifFlag (s : State) (v : Word16) : (s.setTmr v).ifFlag = s.ifFlag := rfl
@[simp] theorem State.setTmr_tie (s : State) (v : Word16) : (s.setTmr v).tie = s.tie := rfl
@[simp] theorem State.setTmr_gie (s : State) (v : Word16) : (s.setTmr v).gie = s.gie := rfl
@[simp] theorem State.setTmr_oe (s : State) (v : Word16) : (s.setTmr v).oe = s.oe := rfl
@[simp] theorem State.setTmr_dutyLo (s : State) (v : Word16) : (s.setTmr v).dutyLo = s.dutyLo := rfl
@[simp] theorem State.setTmr_dutyHi (s : State) (v : Word16) : (s.setTmr v).dutyHi = s.dutyHi := rfl
@[simp] theorem State.setTmr_fault (s : State) (v : Word16) : (s.setTmr v).fault = s.fault := rfl
@[simp] theorem State.setTmr_hist (s : State) (v : Word16) : (s.setTmr v).hist = s.hist := rfl
@[simp] theorem State.setTmr_hpc (s : State) (v : Word16) : (s.setTmr v).hpc = s.hpc := rfl
@[simp] theorem State.setTmr_hwait (s : State) (v : Word16) : (s.setTmr v).hwait = s.hwait := rfl
@[simp] theorem State.setTmr_lat (s : State) (v : Word16) : (s.setTmr v).lat = s.lat := rfl
@[simp] theorem State.setTmr_sched (s : State) (v : Word16) : (s.setTmr v).sched = s.sched := rfl
@[simp] theorem State.setTmr_turn (s : State) (v : Word16) : (s.setTmr v).turn = s.turn := rfl

/-! ### State.setEn -/

@[simp] theorem State.setEn_params (s : State) (b : Bool) : (s.setEn b).params = s.params := rfl
@[simp] theorem State.setEn_rom (s : State) (b : Bool) : (s.setEn b).rom = s.rom := rfl
@[simp] theorem State.setEn_hprog (s : State) (b : Bool) : (s.setEn b).hprog = s.hprog := rfl
@[simp] theorem State.setEn_idx (s : State) (b : Bool) : (s.setEn b).idx = s.idx := rfl
@[simp] theorem State.setEn_tmr (s : State) (b : Bool) : (s.setEn b).tmr = s.tmr := rfl
@[simp] theorem State.setEn_en (s : State) (b : Bool) : (s.setEn b).en = b := rfl
@[simp] theorem State.setEn_ifFlag (s : State) (b : Bool) : (s.setEn b).ifFlag = s.ifFlag := rfl
@[simp] theorem State.setEn_tie (s : State) (b : Bool) : (s.setEn b).tie = s.tie := rfl
@[simp] theorem State.setEn_gie (s : State) (b : Bool) : (s.setEn b).gie = s.gie := rfl
@[simp] theorem State.setEn_oe (s : State) (b : Bool) : (s.setEn b).oe = s.oe := rfl
@[simp] theorem State.setEn_dutyLo (s : State) (b : Bool) : (s.setEn b).dutyLo = s.dutyLo := rfl
@[simp] theorem State.setEn_dutyHi (s : State) (b : Bool) : (s.setEn b).dutyHi = s.dutyHi := rfl
@[simp] theorem State.setEn_fault (s : State) (b : Bool) : (s.setEn b).fault = s.fault := rfl
@[simp] theorem State.setEn_hist (s : State) (b : Bool) : (s.setEn b).hist = s.hist := rfl
@[simp] theorem State.setEn_hpc (s : State) (b : Bool) : (s.setEn b).hpc = s.hpc := rfl
@[simp] theorem State.setEn_hwait (s : State) (b : Bool) : (s.setEn b).hwait = s.hwait := rfl
@[simp] theorem State.setEn_lat (s : State) (b : Bool) : (s.setEn b).lat = s.lat := rfl
@[simp] theorem State.setEn_sched (s : State) (b : Bool) : (s.setEn b).sched = s.sched := rfl
@[simp] theorem State.setEn_turn (s : State) (b : Bool) : (s.setEn b).turn = s.turn := rfl

/-! ### State.setIf -/

@[simp] theorem State.setIf_params (s : State) (b : Bool) : (s.setIf b).params = s.params := rfl
@[simp] theorem State.setIf_rom (s : State) (b : Bool) : (s.setIf b).rom = s.rom := rfl
@[simp] theorem State.setIf_hprog (s : State) (b : Bool) : (s.setIf b).hprog = s.hprog := rfl
@[simp] theorem State.setIf_idx (s : State) (b : Bool) : (s.setIf b).idx = s.idx := rfl
@[simp] theorem State.setIf_tmr (s : State) (b : Bool) : (s.setIf b).tmr = s.tmr := rfl
@[simp] theorem State.setIf_en (s : State) (b : Bool) : (s.setIf b).en = s.en := rfl
@[simp] theorem State.setIf_ifFlag (s : State) (b : Bool) : (s.setIf b).ifFlag = b := rfl
@[simp] theorem State.setIf_tie (s : State) (b : Bool) : (s.setIf b).tie = s.tie := rfl
@[simp] theorem State.setIf_gie (s : State) (b : Bool) : (s.setIf b).gie = s.gie := rfl
@[simp] theorem State.setIf_oe (s : State) (b : Bool) : (s.setIf b).oe = s.oe := rfl
@[simp] theorem State.setIf_dutyLo (s : State) (b : Bool) : (s.setIf b).dutyLo = s.dutyLo := rfl
@[simp] theorem State.setIf_dutyHi (s : State) (b : Bool) : (s.setIf b).dutyHi = s.dutyHi := rfl
@[simp] theorem State.setIf_fault (s : State) (b : Bool) : (s.setIf b).fault = s.fault := rfl
@[simp] theorem State.setIf_hist (s : State) (b : Bool) : (s.setIf b).hist = s.hist := rfl
@[simp] theorem State.setIf_hpc (s : State) (b : Bool) : (s.setIf b).hpc = s.hpc := rfl
@[simp] theorem State.setIf_hwait (s : State) (b : Bool) : (s.setIf b).hwait = s.hwait := rfl
@[simp] theorem State.setIf_lat (s : State) (b : Bool) : (s.setIf b).lat = s.lat := rfl
@[simp] theorem State.setIf_sched (s : State) (b : Bool) : (s.setIf b).sched = s.sched := rfl
@[simp] theorem State.setIf_turn (s : State) (b : Bool) : (s.setIf b).turn = s.turn := rfl

/-! ### State.setTie -/

@[simp] theorem State.setTie_params (s : State) (b : Bool) : (s.setTie b).params = s.params := rfl
@[simp] theorem State.setTie_rom (s : State) (b : Bool) : (s.setTie b).rom = s.rom := rfl
@[simp] theorem State.setTie_hprog (s : State) (b : Bool) : (s.setTie b).hprog = s.hprog := rfl
@[simp] theorem State.setTie_idx (s : State) (b : Bool) : (s.setTie b).idx = s.idx := rfl
@[simp] theorem State.setTie_tmr (s : State) (b : Bool) : (s.setTie b).tmr = s.tmr := rfl
@[simp] theorem State.setTie_en (s : State) (b : Bool) : (s.setTie b).en = s.en := rfl
@[simp] theorem State.setTie_ifFlag (s : State) (b : Bool) : (s.setTie b).ifFlag = s.ifFlag := rfl
@[simp] theorem State.setTie_tie (s : State) (b : Bool) : (s.setTie b).tie = b := rfl
@[simp] theorem State.setTie_gie (s : State) (b : Bool) : (s.setTie b).gie = s.gie := rfl
@[simp] theorem State.setTie_oe (s : State) (b : Bool) : (s.setTie b).oe = s.oe := rfl
@[simp] theorem State.setTie_dutyLo (s : State) (b : Bool) : (s.setTie b).dutyLo = s.dutyLo := rfl
@[simp] theorem State.setTie_dutyHi (s : State) (b : Bool) : (s.setTie b).dutyHi = s.dutyHi := rfl
@[simp] theorem State.setTie_fault (s : State) (b : Bool) : (s.setTie b).fault = s.fault := rfl
@[simp] theorem State.setTie_hist (s : State) (b : Bool) : (s.setTie b).hist = s.hist := rfl
@[simp] theorem State.setTie_hpc (s : State) (b : Bool) : (s.setTie b).hpc = s.hpc := rfl
@[simp] theorem State.setTie_hwait (s : State) (b : Bool) : (s.setTie b).hwait = s.hwait := rfl
@[simp] theorem State.setTie_lat (s : State) (b : Bool) : (s.setTie b).lat = s.lat := rfl
@[simp] theorem State.setTie_sched (s : State) (b : Bool) : (s.setTie b).sched = s.sched := rfl
@[simp] theorem State.setTie_turn (s : State) (b : Bool) : (s.setTie b).turn = s.turn := rfl

/-! ### State.setGie -/

@[simp] theorem State.setGie_params (s : State) (b : Bool) : (s.setGie b).params = s.params := rfl
@[simp] theorem State.setGie_rom (s : State) (b : Bool) : (s.setGie b).rom = s.rom := rfl
@[simp] theorem State.setGie_hprog (s : State) (b : Bool) : (s.setGie b).hprog = s.hprog := rfl
@[simp] theorem State.setGie_idx (s : State) (b : Bool) : (s.setGie b).idx = s.idx := rfl
@[simp] theorem State.setGie_tmr (s : State) (b : Bool) : (s.setGie b).tmr = s.tmr := rfl
@[simp] theorem State.setGie_en (s : State) (b : Bool) : (s.setGie b).en = s.en := rfl
@[simp] theorem State.setGie_ifFlag (s : State) (b : Bool) : (s.setGie b).ifFlag = s.ifFlag := rfl
@[simp] theorem State.setGie_tie (s : State) (b : Bool) : (s.setGie b).tie = s.tie := rfl
@[simp] theorem State.setGie_gie (s : State) (b : Bool) : (s.setGie b).gie = b := rfl
@[simp] theorem State.setGie_oe (s : State) (b : Bool) : (s.setGie b).oe = s.oe := rfl
@[simp] theorem State.setGie_dutyLo (s : State) (b : Bool) : (s.setGie b).dutyLo = s.dutyLo := rfl
@[simp] theorem State.setGie_dutyHi (s : State) (b : Bool) : (s.setGie b).dutyHi = s.dutyHi := rfl
@[simp] theorem State.setGie_fault (s : State) (b : Bool) : (s.setGie b).fault = s.fault := rfl
@[simp] theorem State.setGie_hist (s : State) (b : Bool) : (s.setGie b).hist = s.hist := rfl
@[simp] theorem State.setGie_hpc (s : State) (b : Bool) : (s.setGie b).hpc = s.hpc := rfl
@[simp] theorem State.setGie_hwait (s : State) (b : Bool) : (s.setGie b).hwait = s.hwait := rfl
@[simp] theorem State.setGie_lat (s : State) (b : Bool) : (s.setGie b).lat = s.lat := rfl
@[simp] theorem State.setGie_sched (s : State) (b : Bool) : (s.setGie b).sched = s.sched := rfl
@[simp] theorem State.setGie_turn (s : State) (b : Bool) : (s.setGie b).turn = s.turn := rfl

/-! ### State.setOe -/

@[simp] theorem State.setOe_params (s : State) (b : Bool) : (s.setOe b).params = s.params := rfl
@[simp] theorem State.setOe_rom (s : State) (b : Bool) : (s.setOe b).rom = s.rom := rfl
@[simp] theorem State.setOe_hprog (s : State) (b : Bool) : (s.setOe b).hprog = s.hprog := rfl
@[simp] theorem State.setOe_idx (s : State) (b : Bool) : (s.setOe b).idx = s.idx := rfl
@[simp] theorem State.setOe_tmr (s : State) (b : Bool) : (s.setOe b).tmr = s.tmr := rfl
@[simp] theorem State.setOe_en (s : State) (b : Bool) : (s.setOe b).en = s.en := rfl
@[simp] theorem State.setOe_ifFlag (s : State) (b : Bool) : (s.setOe b).ifFlag = s.ifFlag := rfl
@[simp] theorem State.setOe_tie (s : State) (b : Bool) : (s.setOe b).tie = s.tie := rfl
@[simp] theorem State.setOe_gie (s : State) (b : Bool) : (s.setOe b).gie = s.gie := rfl
@[simp] theorem State.setOe_oe (s : State) (b : Bool) : (s.setOe b).oe = b := rfl
@[simp] theorem State.setOe_dutyLo (s : State) (b : Bool) : (s.setOe b).dutyLo = s.dutyLo := rfl
@[simp] theorem State.setOe_dutyHi (s : State) (b : Bool) : (s.setOe b).dutyHi = s.dutyHi := rfl
@[simp] theorem State.setOe_fault (s : State) (b : Bool) : (s.setOe b).fault = s.fault := rfl
@[simp] theorem State.setOe_hist (s : State) (b : Bool) : (s.setOe b).hist = s.hist := rfl
@[simp] theorem State.setOe_hpc (s : State) (b : Bool) : (s.setOe b).hpc = s.hpc := rfl
@[simp] theorem State.setOe_hwait (s : State) (b : Bool) : (s.setOe b).hwait = s.hwait := rfl
@[simp] theorem State.setOe_lat (s : State) (b : Bool) : (s.setOe b).lat = s.lat := rfl
@[simp] theorem State.setOe_sched (s : State) (b : Bool) : (s.setOe b).sched = s.sched := rfl
@[simp] theorem State.setOe_turn (s : State) (b : Bool) : (s.setOe b).turn = s.turn := rfl

/-! ### State.setDutyLo -/

@[simp] theorem State.setDutyLo_params (s : State) (v : Byte) : (s.setDutyLo v).params = s.params := rfl
@[simp] theorem State.setDutyLo_rom (s : State) (v : Byte) : (s.setDutyLo v).rom = s.rom := rfl
@[simp] theorem State.setDutyLo_hprog (s : State) (v : Byte) : (s.setDutyLo v).hprog = s.hprog := rfl
@[simp] theorem State.setDutyLo_idx (s : State) (v : Byte) : (s.setDutyLo v).idx = s.idx := rfl
@[simp] theorem State.setDutyLo_tmr (s : State) (v : Byte) : (s.setDutyLo v).tmr = s.tmr := rfl
@[simp] theorem State.setDutyLo_en (s : State) (v : Byte) : (s.setDutyLo v).en = s.en := rfl
@[simp] theorem State.setDutyLo_ifFlag (s : State) (v : Byte) : (s.setDutyLo v).ifFlag = s.ifFlag := rfl
@[simp] theorem State.setDutyLo_tie (s : State) (v : Byte) : (s.setDutyLo v).tie = s.tie := rfl
@[simp] theorem State.setDutyLo_gie (s : State) (v : Byte) : (s.setDutyLo v).gie = s.gie := rfl
@[simp] theorem State.setDutyLo_oe (s : State) (v : Byte) : (s.setDutyLo v).oe = s.oe := rfl
@[simp] theorem State.setDutyLo_dutyLo (s : State) (v : Byte) : (s.setDutyLo v).dutyLo = some v := rfl
@[simp] theorem State.setDutyLo_dutyHi (s : State) (v : Byte) : (s.setDutyLo v).dutyHi = s.dutyHi := rfl
@[simp] theorem State.setDutyLo_fault (s : State) (v : Byte) : (s.setDutyLo v).fault = s.fault := rfl
@[simp] theorem State.setDutyLo_hist (s : State) (v : Byte) : (s.setDutyLo v).hist = s.hist := rfl
@[simp] theorem State.setDutyLo_hpc (s : State) (v : Byte) : (s.setDutyLo v).hpc = s.hpc := rfl
@[simp] theorem State.setDutyLo_hwait (s : State) (v : Byte) : (s.setDutyLo v).hwait = s.hwait := rfl
@[simp] theorem State.setDutyLo_lat (s : State) (v : Byte) : (s.setDutyLo v).lat = s.lat := rfl
@[simp] theorem State.setDutyLo_sched (s : State) (v : Byte) : (s.setDutyLo v).sched = s.sched := rfl
@[simp] theorem State.setDutyLo_turn (s : State) (v : Byte) : (s.setDutyLo v).turn = s.turn := rfl

/-! ### State.setDutyHi -/

@[simp] theorem State.setDutyHi_params (s : State) (v : BitVec 2) : (s.setDutyHi v).params = s.params := rfl
@[simp] theorem State.setDutyHi_rom (s : State) (v : BitVec 2) : (s.setDutyHi v).rom = s.rom := rfl
@[simp] theorem State.setDutyHi_hprog (s : State) (v : BitVec 2) : (s.setDutyHi v).hprog = s.hprog := rfl
@[simp] theorem State.setDutyHi_idx (s : State) (v : BitVec 2) : (s.setDutyHi v).idx = s.idx := rfl
@[simp] theorem State.setDutyHi_tmr (s : State) (v : BitVec 2) : (s.setDutyHi v).tmr = s.tmr := rfl
@[simp] theorem State.setDutyHi_en (s : State) (v : BitVec 2) : (s.setDutyHi v).en = s.en := rfl
@[simp] theorem State.setDutyHi_ifFlag (s : State) (v : BitVec 2) : (s.setDutyHi v).ifFlag = s.ifFlag := rfl
@[simp] theorem State.setDutyHi_tie (s : State) (v : BitVec 2) : (s.setDutyHi v).tie = s.tie := rfl
@[simp] theorem State.setDutyHi_gie (s : State) (v : BitVec 2) : (s.setDutyHi v).gie = s.gie := rfl
@[simp] theorem State.setDutyHi_oe (s : State) (v : BitVec 2) : (s.setDutyHi v).oe = s.oe := rfl
@[simp] theorem State.setDutyHi_dutyLo (s : State) (v : BitVec 2) : (s.setDutyHi v).dutyLo = s.dutyLo := rfl
@[simp] theorem State.setDutyHi_dutyHi (s : State) (v : BitVec 2) : (s.setDutyHi v).dutyHi = some v := rfl
@[simp] theorem State.setDutyHi_fault (s : State) (v : BitVec 2) : (s.setDutyHi v).fault = s.fault := rfl
@[simp] theorem State.setDutyHi_hist (s : State) (v : BitVec 2) : (s.setDutyHi v).hist = s.hist := rfl
@[simp] theorem State.setDutyHi_hpc (s : State) (v : BitVec 2) : (s.setDutyHi v).hpc = s.hpc := rfl
@[simp] theorem State.setDutyHi_hwait (s : State) (v : BitVec 2) : (s.setDutyHi v).hwait = s.hwait := rfl
@[simp] theorem State.setDutyHi_lat (s : State) (v : BitVec 2) : (s.setDutyHi v).lat = s.lat := rfl
@[simp] theorem State.setDutyHi_sched (s : State) (v : BitVec 2) : (s.setDutyHi v).sched = s.sched := rfl
@[simp] theorem State.setDutyHi_turn (s : State) (v : BitVec 2) : (s.setDutyHi v).turn = s.turn := rfl

/-! ### State.setHwait -/

@[simp] theorem State.setHwait_params (s : State) (v : Word16) : (s.setHwait v).params = s.params := rfl
@[simp] theorem State.setHwait_rom (s : State) (v : Word16) : (s.setHwait v).rom = s.rom := rfl
@[simp] theorem State.setHwait_hprog (s : State) (v : Word16) : (s.setHwait v).hprog = s.hprog := rfl
@[simp] theorem State.setHwait_idx (s : State) (v : Word16) : (s.setHwait v).idx = s.idx := rfl
@[simp] theorem State.setHwait_tmr (s : State) (v : Word16) : (s.setHwait v).tmr = s.tmr := rfl
@[simp] theorem State.setHwait_en (s : State) (v : Word16) : (s.setHwait v).en = s.en := rfl
@[simp] theorem State.setHwait_ifFlag (s : State) (v : Word16) : (s.setHwait v).ifFlag = s.ifFlag := rfl
@[simp] theorem State.setHwait_tie (s : State) (v : Word16) : (s.setHwait v).tie = s.tie := rfl
@[simp] theorem State.setHwait_gie (s : State) (v : Word16) : (s.setHwait v).gie = s.gie := rfl
@[simp] theorem State.setHwait_oe (s : State) (v : Word16) : (s.setHwait v).oe = s.oe := rfl
@[simp] theorem State.setHwait_dutyLo (s : State) (v : Word16) : (s.setHwait v).dutyLo = s.dutyLo := rfl
@[simp] theorem State.setHwait_dutyHi (s : State) (v : Word16) : (s.setHwait v).dutyHi = s.dutyHi := rfl
@[simp] theorem State.setHwait_fault (s : State) (v : Word16) : (s.setHwait v).fault = s.fault := rfl
@[simp] theorem State.setHwait_hist (s : State) (v : Word16) : (s.setHwait v).hist = s.hist := rfl
@[simp] theorem State.setHwait_hpc (s : State) (v : Word16) : (s.setHwait v).hpc = s.hpc := rfl
@[simp] theorem State.setHwait_hwait (s : State) (v : Word16) : (s.setHwait v).hwait = v := rfl
@[simp] theorem State.setHwait_lat (s : State) (v : Word16) : (s.setHwait v).lat = s.lat := rfl
@[simp] theorem State.setHwait_sched (s : State) (v : Word16) : (s.setHwait v).sched = s.sched := rfl
@[simp] theorem State.setHwait_turn (s : State) (v : Word16) : (s.setHwait v).turn = s.turn := rfl

/-! ### State.setLat -/

@[simp] theorem State.setLat_params (s : State) (n : Nat) : (s.setLat n).params = s.params := rfl
@[simp] theorem State.setLat_rom (s : State) (n : Nat) : (s.setLat n).rom = s.rom := rfl
@[simp] theorem State.setLat_hprog (s : State) (n : Nat) : (s.setLat n).hprog = s.hprog := rfl
@[simp] theorem State.setLat_idx (s : State) (n : Nat) : (s.setLat n).idx = s.idx := rfl
@[simp] theorem State.setLat_tmr (s : State) (n : Nat) : (s.setLat n).tmr = s.tmr := rfl
@[simp] theorem State.setLat_en (s : State) (n : Nat) : (s.setLat n).en = s.en := rfl
@[simp] theorem State.setLat_ifFlag (s : State) (n : Nat) : (s.setLat n).ifFlag = s.ifFlag := rfl
@[simp] theorem State.setLat_tie (s : State) (n : Nat) : (s.setLat n).tie = s.tie := rfl
@[simp] theorem State.setLat_gie (s : State) (n : Nat) : (s.setLat n).gie = s.gie := rfl
@[simp] theorem State.setLat_oe (s : State) (n : Nat) : (s.setLat n).oe = s.oe := rfl
@[simp] theorem State.setLat_dutyLo (s : State) (n : Nat) : (s.setLat n).dutyLo = s.dutyLo := rfl
@[simp] theorem State.setLat_dutyHi (s : State) (n : Nat) : (s.setLat n).dutyHi = s.dutyHi := rfl
@[simp] theorem State.setLat_fault (s : State) (n : Nat) : (s.setLat n).fault = s.fault := rfl
@[simp] theorem State.setLat_hist (s : State) (n : Nat) : (s.setLat n).hist = s.hist := rfl
@[simp] theorem State.setLat_hpc (s : State) (n : Nat) : (s.setLat n).hpc = s.hpc := rfl
@[simp] theorem State.setLat_hwait (s : State) (n : Nat) : (s.setLat n).hwait = s.hwait := rfl
@[simp] theorem State.setLat_lat (s : State) (n : Nat) : (s.setLat n).lat = n := rfl
@[simp] theorem State.setLat_sched (s : State) (n : Nat) : (s.setLat n).sched = s.sched := rfl
@[simp] theorem State.setLat_turn (s : State) (n : Nat) : (s.setLat n).turn = s.turn := rfl

/-! ### State.log -/

@[simp] theorem State.log_params (s : State) (e : Event) : (s.log e).params = s.params := rfl
@[simp] theorem State.log_rom (s : State) (e : Event) : (s.log e).rom = s.rom := rfl
@[simp] theorem State.log_hprog (s : State) (e : Event) : (s.log e).hprog = s.hprog := rfl
@[simp] theorem State.log_idx (s : State) (e : Event) : (s.log e).idx = s.idx := rfl
@[simp] theorem State.log_tmr (s : State) (e : Event) : (s.log e).tmr = s.tmr := rfl
@[simp] theorem State.log_en (s : State) (e : Event) : (s.log e).en = s.en := rfl
@[simp] theorem State.log_ifFlag (s : State) (e : Event) : (s.log e).ifFlag = s.ifFlag := rfl
@[simp] theorem State.log_tie (s : State) (e : Event) : (s.log e).tie = s.tie := rfl
@[simp] theorem State.log_gie (s : State) (e : Event) : (s.log e).gie = s.gie := rfl
@[simp] theorem State.log_oe (s : State) (e : Event) : (s.log e).oe = s.oe := rfl
@[simp] theorem State.log_dutyLo (s : State) (e : Event) : (s.log e).dutyLo = s.dutyLo := rfl
@[simp] theorem State.log_dutyHi (s : State) (e : Event) : (s.log e).dutyHi = s.dutyHi := rfl
@[simp] theorem State.log_fault (s : State) (e : Event) : (s.log e).fault = s.fault := rfl
@[simp] theorem State.log_hist (s : State) (e : Event) : (s.log e).hist = s.hist ++ [e] := rfl
@[simp] theorem State.log_hpc (s : State) (e : Event) : (s.log e).hpc = s.hpc := rfl
@[simp] theorem State.log_hwait (s : State) (e : Event) : (s.log e).hwait = s.hwait := rfl
@[simp] theorem State.log_lat (s : State) (e : Event) : (s.log e).lat = s.lat := rfl
@[simp] theorem State.log_sched (s : State) (e : Event) : (s.log e).sched = s.sched := rfl
@[simp] theorem State.log_turn (s : State) (e : Event) : (s.log e).turn = s.turn := rfl

/-! ### State.advance -/

@[simp] theorem State.advance_params (s : State) : (s.advance).params = s.params := rfl
@[simp] theorem State.advance_rom (s : State) : (s.advance).rom = s.rom := rfl
@[simp] theorem State.advance_hprog (s : State) : (s.advance).hprog = s.hprog := rfl
@[simp] theorem State.advance_idx (s : State) : (s.advance).idx = s.idx := rfl
@[simp] theorem State.advance_tmr (s : State) : (s.advance).tmr = s.tmr := rfl
@[simp] theorem State.advance_en (s : State) : (s.advance).en = s.en := rfl
@[simp] theorem State.advance_ifFlag (s : State) : (s.advance).ifFlag = s.ifFlag := rfl
@[simp] theorem State.advance_tie (s : State) : (s.advance).tie = s.tie := rfl
@[simp] theorem State.advance_gie (s : State) : (s.advance).gie = s.gie := rfl
@[simp] theorem State.advance_oe (s : State) : (s.advance).oe = s.oe := rfl
@[simp] theorem State.advance_dutyLo (s : State) : (s.advance).dutyLo = s.dutyLo := rfl
@[simp] theorem State.advance_dutyHi (s : State) : (s.advance).dutyHi = s.dutyHi := rfl
@[simp] theorem State.advance_fault (s : State) : (s.advance).fault = s.fault := rfl
@[simp] theorem State.advance_hist (s : State) : (s.advance).hist = s.hist := rfl
@[simp] theorem State.advance_hpc (s : State) : (s.advance).hpc = s.hpc + 1 := rfl
@[simp] theorem State.advance_hwait (s : State) : (s.advance).hwait = s.hwait := rfl
@[simp] theorem State.advance_lat (s : State) : (s.advance).lat = s.lat := rfl
@[simp] theorem State.advance_sched (s : State) : (s.advance).sched = s.sched := rfl
@[simp] theorem State.advance_turn (s : State) : (s.advance).turn = s.turn := rfl

/-! ### State.raise -/

@[simp] theorem State.raise_params (s : State) (a : Agent) (c : FaultCode) (n : Nat) : (s.raise a c n).params = s.params := rfl
@[simp] theorem State.raise_rom (s : State) (a : Agent) (c : FaultCode) (n : Nat) : (s.raise a c n).rom = s.rom := rfl
@[simp] theorem State.raise_hprog (s : State) (a : Agent) (c : FaultCode) (n : Nat) : (s.raise a c n).hprog = s.hprog := rfl
@[simp] theorem State.raise_idx (s : State) (a : Agent) (c : FaultCode) (n : Nat) : (s.raise a c n).idx = s.idx := rfl
@[simp] theorem State.raise_tmr (s : State) (a : Agent) (c : FaultCode) (n : Nat) : (s.raise a c n).tmr = s.tmr := rfl
@[simp] theorem State.raise_en (s : State) (a : Agent) (c : FaultCode) (n : Nat) : (s.raise a c n).en = s.en := rfl
@[simp] theorem State.raise_ifFlag (s : State) (a : Agent) (c : FaultCode) (n : Nat) : (s.raise a c n).ifFlag = s.ifFlag := rfl
@[simp] theorem State.raise_tie (s : State) (a : Agent) (c : FaultCode) (n : Nat) : (s.raise a c n).tie = s.tie := rfl
@[simp] theorem State.raise_gie (s : State) (a : Agent) (c : FaultCode) (n : Nat) : (s.raise a c n).gie = s.gie := rfl
@[simp] theorem State.raise_oe (s : State) (a : Agent) (c : FaultCode) (n : Nat) : (s.raise a c n).oe = s.oe := rfl
@[simp] theorem State.raise_dutyLo (s : State) (a : Agent) (c : FaultCode) (n : Nat) : (s.raise a c n).dutyLo = s.dutyLo := rfl
@[simp] theorem State.raise_dutyHi (s : State) (a : Agent) (c : FaultCode) (n : Nat) : (s.raise a c n).dutyHi = s.dutyHi := rfl
@[simp] theorem State.raise_fault (s : State) (a : Agent) (c : FaultCode) (n : Nat) : (s.raise a c n).fault = s.fault ||| faultBit c := rfl
@[simp] theorem State.raise_hist (s : State) (a : Agent) (c : FaultCode) (n : Nat) : (s.raise a c n).hist = s.hist ++ [.fault a c n] := rfl
@[simp] theorem State.raise_hpc (s : State) (a : Agent) (c : FaultCode) (n : Nat) : (s.raise a c n).hpc = s.hpc := rfl
@[simp] theorem State.raise_hwait (s : State) (a : Agent) (c : FaultCode) (n : Nat) : (s.raise a c n).hwait = s.hwait := rfl
@[simp] theorem State.raise_lat (s : State) (a : Agent) (c : FaultCode) (n : Nat) : (s.raise a c n).lat = s.lat := rfl
@[simp] theorem State.raise_sched (s : State) (a : Agent) (c : FaultCode) (n : Nat) : (s.raise a c n).sched = s.sched := rfl
@[simp] theorem State.raise_turn (s : State) (a : Agent) (c : FaultCode) (n : Nat) : (s.raise a c n).turn = s.turn := rfl

/-! ### State.takeTurn -/

@[simp] theorem State.takeTurn_params (s : State) : (s.takeTurn).params = s.params := rfl
@[simp] theorem State.takeTurn_rom (s : State) : (s.takeTurn).rom = s.rom := rfl
@[simp] theorem State.takeTurn_hprog (s : State) : (s.takeTurn).hprog = s.hprog := rfl
@[simp] theorem State.takeTurn_idx (s : State) : (s.takeTurn).idx = s.idx := rfl
@[simp] theorem State.takeTurn_tmr (s : State) : (s.takeTurn).tmr = s.tmr := rfl
@[simp] theorem State.takeTurn_en (s : State) : (s.takeTurn).en = s.en := rfl
@[simp] theorem State.takeTurn_ifFlag (s : State) : (s.takeTurn).ifFlag = s.ifFlag := rfl
@[simp] theorem State.takeTurn_tie (s : State) : (s.takeTurn).tie = s.tie := rfl
@[simp] theorem State.takeTurn_gie (s : State) : (s.takeTurn).gie = s.gie := rfl
@[simp] theorem State.takeTurn_oe (s : State) : (s.takeTurn).oe = s.oe := rfl
@[simp] theorem State.takeTurn_dutyLo (s : State) : (s.takeTurn).dutyLo = s.dutyLo := rfl
@[simp] theorem State.takeTurn_dutyHi (s : State) : (s.takeTurn).dutyHi = s.dutyHi := rfl
@[simp] theorem State.takeTurn_fault (s : State) : (s.takeTurn).fault = s.fault := rfl
@[simp] theorem State.takeTurn_hist (s : State) : (s.takeTurn).hist = s.hist := rfl
@[simp] theorem State.takeTurn_hpc (s : State) : (s.takeTurn).hpc = s.hpc := rfl
@[simp] theorem State.takeTurn_hwait (s : State) : (s.takeTurn).hwait = s.hwait := rfl
@[simp] theorem State.takeTurn_lat (s : State) : (s.takeTurn).lat = s.lat := rfl
@[simp] theorem State.takeTurn_sched (s : State) : (s.takeTurn).sched = s.sched.tail := rfl
@[simp] theorem State.takeTurn_turn (s : State) : (s.takeTurn).turn = s.turn + 1 := rfl

end Sys2Proof.Machine
end

