-- ==== Sys2Proof/Laws/Ops.lean ====
section
/-!
SUPPORT. What each shared operation can do, said once: the timer's edge, the service, a host read, the fetch of a word and
the choice of the next agent.
-/

namespace Sys2Proof.Machine

/-- The table's length as a numeral, for arithmetic. -/
theorem len_eq : Config.len = 158 := rfl

/-! ### The timer's edge -/

/-- The host delay counts down to 0 and stays there; nothing else changes. -/
theorem State.countDelay_eq (s : State) :
    s.countDelay = { s with hwait := if s.hwait = 0#16 then 0#16 else s.hwait - 1#16 } := by
  by_cases h : s.hwait = 0#16
  · rw [State.countDelay, if_neg (by simp [h]), if_pos h]
    cases s; cases h; rfl
  · rw [State.countDelay, if_pos h, if_neg h]; rfl

/-- LAT grows by one exactly where a timer interrupt is pending and enabled; nothing else changes. -/
theorem State.countLatency_eq (s : State) :
    s.countLatency = { s with lat := if s.interruptPending then s.lat + 1 else s.lat } := by
  unfold State.countLatency
  split <;> rfl

/-- TMR counts up, IF is set at the wrap and never cleared; nothing else changes. -/
theorem State.countTimer_eq (s : State) (t : Word16) :
    s.countTimer t = { s with tmr := some (t + 1#16), ifFlag := s.ifFlag || timerOverflows t } := by
  unfold State.countTimer
  by_cases h : timerOverflows t <;> simp [h] <;> rfl

/-- An edge of the running timer, in one record. -/
theorem State.runningEdge_eq (s : State) (t : Word16) :
    s.countDelay.countLatency.countTimer t =
      { s with hwait := if s.hwait = 0#16 then 0#16 else s.hwait - 1#16,
               lat := if s.interruptPending then s.lat + 1 else s.lat,
               tmr := some (t + 1#16), ifFlag := s.ifFlag || timerOverflows t } := by
  rw [State.countTimer_eq, State.countLatency_eq, State.countDelay_eq]
  rfl

/-- An edge with the timer stopped, in one record. -/
theorem State.stoppedEdge_eq (s : State) :
    s.countDelay.countLatency =
      { s with hwait := if s.hwait = 0#16 then 0#16 else s.hwait - 1#16,
               lat := if s.interruptPending then s.lat + 1 else s.lat } := by
  rw [State.countLatency_eq, State.countDelay_eq]
  rfl

/-! ### The service -/

/-- The service of entry `i`, in one record (R81). -/
theorem State.service_eq (s : State) (i v : Byte) :
    s.service i v =
      { s with tmr := some s.params.reload, dutyLo := some v,
               hist := s.hist ++ [.sample i v, .dutyWrite .sequencer v none],
               idx := some (i + 1#8), en := s.en && !isLastSample i, ifFlag := false, lat := 0 } := by
  unfold State.service State.disarmAfter
  by_cases h : isLastSample i <;>
    simp [h, State.setLat, State.setIf, State.setEn, State.setIdx, State.log, State.setDutyLo, State.setTmr]

/-! ### A host read -/

/-- A host read either raises F_UNINIT or logs the value and completes (R101–R104). -/
theorem hostRead_cases {op : Opcode} {r : Reg} {v : Option Word16} {s t : State} (h : hostRead op r v s = .next t) :
    (v = none ∧ t = s.raise .host .uninit (regNumber r)) ∨
      ∃ w, v = some w ∧ t = (s.log (.hostRead op w)).advance := by
  cases v with
  | none => exact .inl ⟨rfl, by simpa [hostRead] using h.symm⟩
  | some w => exact .inr ⟨w, rfl, by simpa [hostRead, hostDone] using h.symm⟩

/-! ### Fetch -/

/-- An agent that fetches a word is enabled, and the word is its own (R69, R90). -/
theorem State.fetch_cases {s : State} {a : Agent} {w : OpWord} (h : s.fetch a = some w) :
    s.enabled a = true ∧
      ((a = .timer ∧ w = tickWord) ∨ (a = .sequencer ∧ w = vectorWord) ∨ (a = .host ∧ s.hprog[s.hpc]? = some w)) := by
  unfold State.fetch at h
  split at h
  · rename_i he
    cases a
    · exact ⟨he, .inl ⟨rfl, by simpa using h.symm⟩⟩
    · exact ⟨he, .inr (.inl ⟨rfl, by simpa using h.symm⟩)⟩
    · exact ⟨he, .inr (.inr ⟨rfl, h⟩)⟩
  · cases h

/-- An enabled agent fetches a word. -/
theorem State.fetch_of_enabled {s : State} {a : Agent} (h : s.enabled a = true) : ∃ w, s.fetch a = some w := by
  unfold State.fetch
  rw [if_pos h]
  cases a with
  | timer => exact ⟨tickWord, rfl⟩
  | sequencer => exact ⟨vectorWord, rfl⟩
  | host =>
    have hl : s.hpc < s.hprog.length := by
      simp only [State.enabled, State.hostEnabled, Bool.and_eq_true, decide_eq_true_eq] at h
      exact h.1.1.2
    exact ⟨s.hprog[s.hpc], List.getElem?_eq_getElem hl⟩

/-- An agent whose step is enabled is in a state with FAULT = 0 (R77, R79, R90). -/
theorem State.unfaulted_of_enabled {s : State} {a : Agent} (h : s.enabled a = true) : s.fault = 0#3 := by
  cases a <;>
    simp only [State.enabled, State.tickEnabled, State.vectorEnabled, State.hostEnabled, State.unfaulted,
      Bool.and_eq_true, decide_eq_true_eq] at h
  · exact h.1
  · exact h.1
  · exact h.1.1.1

@[simp] theorem State.takeTurn_enabled (s : State) (a : Agent) : s.takeTurn.enabled a = s.enabled a := rfl

@[simp] theorem State.takeTurn_fetch (s : State) (a : Agent) : s.takeTurn.fetch a = s.fetch a := rfl

/-! ### The next agent -/

/-- The free choice among enabled agents picks one of them. -/
theorem pickAgent_mem {as : List Agent} {n : Nat} {a : Agent} (h : pickAgent as n = some a) : a ∈ as := by
  match as, h with
  | [b], h => simpa [pickAgent, eq_comm] using h
  | b :: c :: rest, h => exact List.mem_of_getElem? h

/-- Where some agent is enabled, the free choice picks one. -/
theorem pickAgent_some (b : Agent) (as : List Agent) (n : Nat) : ∃ a, pickAgent (b :: as) n = some a := by
  match as with
  | [] => exact ⟨b, rfl⟩
  | c :: rest =>
    have h : Config.freeChoice n % (rest.length + 2) < (b :: c :: rest).length :=
      Nat.mod_lt _ (Nat.succ_pos _)
    exact ⟨_, List.getElem?_eq_getElem h⟩

theorem State.mem_enabledAgents (s : State) (a : Agent) : a ∈ s.enabledAgents ↔ s.enabled a = true := by
  cases a <;> simp [State.enabledAgents]

/-- The next agent is the one the schedule names, or an enabled one where the schedule is empty. -/
theorem State.nextAgent_cases {s : State} {a : Agent} (h : s.nextAgent = some a) :
    (∃ rest, s.sched = a :: rest) ∨ (s.sched = [] ∧ s.enabled a = true) := by
  unfold State.nextAgent at h
  split at h
  · cases h
  · rename_i b bs hb
    split at h
    · rename_i c rest hc
      cases h
      exact .inl ⟨rest, hc⟩
    · rename_i hc
      have := pickAgent_mem h
      rw [← hb] at this
      exact .inr ⟨hc, (s.mem_enabledAgents a).mp this⟩

end Sys2Proof.Machine
end

