-- ==== Sys2Proof/Laws/Exec.lean ====
section
/-!
SUPPORT. What a step can do, said once: the cases of TICK and VECTOR, the shape every host instruction's answer has, and the cases
of an agent's step and of a step of the run.
-/

namespace Sys2Proof.Machine

/-- TICK's three cases (R76). -/
theorem execTick_cases {s t : State} (h : execTick s = .next t) :
    (s.en = true ∧ s.tmr = none ∧ t = s.raise .timer .uninit 1) ∨
      (∃ v, s.en = true ∧ s.tmr = some v ∧ t = s.countDelay.countLatency.countTimer v) ∨
      (s.en = false ∧ t = s.countDelay.countLatency) := by
  unfold execTick at h
  split at h
  · rename_i h1 h2
    exact .inl ⟨h1, h2, by simpa [regNumber] using h.symm⟩
  · rename_i h1 h2
    exact .inr (.inl ⟨_, h1, h2, by simpa using h.symm⟩)
  · rename_i h1
    exact .inr (.inr ⟨h1, by simpa using h.symm⟩)

/-- VECTOR's four cases (R80–R82). -/
theorem execVector_cases {s t : State} (h : execVector s = .next t) :
    (s.ifFlag = false ∧ t = s) ∨
      (s.ifFlag = true ∧ s.idx = none ∧ t = s.raise .sequencer .uninit 0) ∨
      (∃ i, s.ifFlag = true ∧ s.idx = some i ∧ Config.len ≤ i.toNat ∧ t = s.raise .sequencer .oob i.toNat) ∨
      (∃ i, ∃ hi : i.toNat < Config.len, s.ifFlag = true ∧ s.idx = some i ∧
        t = s.service i (Memory.sample s.rom ⟨i.toNat, hi⟩)) := by
  unfold execVector at h
  split at h
  · rename_i hf
    split at h
    · rename_i hn
      exact .inr (.inl ⟨hf, hn, by simpa [regNumber] using h.symm⟩)
    · rename_i i hs
      split at h
      · rename_i hi
        exact .inr (.inr (.inr ⟨i, hi, hf, hs, by simpa using h.symm⟩))
      · rename_i hi
        exact .inr (.inr (.inl ⟨i, hf, hs, by omega, by simpa using h.symm⟩))
  · rename_i hf
    exact .inl ⟨by simpa using hf, by simpa using h.symm⟩


/-- Every agent's step answers a next state: no meaning stops. -/
theorem exec_answers (i : Instr) (s : State) : ∃ t, exec i s = .next t := by
  cases i with
  | tick =>
    simp only [exec, execTick]
    split <;> exact ⟨_, rfl⟩
  | vector =>
    simp only [exec, execVector]
    split
    · split
      · exact ⟨_, rfl⟩
      · split <;> exact ⟨_, rfl⟩
    · exact ⟨_, rfl⟩
  | rdIdx => simp only [exec, execRdIdx, hostRead]; split <;> exact ⟨_, rfl⟩
  | rdTmr => simp only [exec, execRdTmr, hostRead]; split <;> exact ⟨_, rfl⟩
  | rdDuty => simp only [exec, execRdDuty, hostRead]; split <;> exact ⟨_, rfl⟩
  | rdStatus => exact ⟨_, rfl⟩
  | nop => exact ⟨_, rfl⟩
  | wrIdx v => exact ⟨_, rfl⟩
  | wrTmr v => exact ⟨_, rfl⟩
  | wrEn b => exact ⟨_, rfl⟩
  | wrTie b => exact ⟨_, rfl⟩
  | wrGie b => exact ⟨_, rfl⟩
  | wrOe b => exact ⟨_, rfl⟩
  | wrDuty hi lo => exact ⟨_, rfl⟩
  | wrDutyl lo => exact ⟨_, rfl⟩
  | dly n => exact ⟨_, rfl⟩

/-- A host instruction either completes, with HPC advanced and what no host word writes as it was, or raises F_UNINIT
(R90, R112, R117). -/
theorem exec_host_cases {i : Instr} {s t : State} (hi : i.issuer = .host) (h : exec i s = .next t) :
    (t.hpc = s.hpc + 1 ∧ t.fault = s.fault ∧ t.ifFlag = s.ifFlag ∧ t.lat = s.lat ∧ t.rom = s.rom ∧
        t.params = s.params ∧ t.hprog = s.hprog ∧ t.sched = s.sched ∧ t.turn = s.turn) ∨
      (∃ r, t = s.raise .host .uninit (regNumber r)) := by
  cases i with
  | tick => cases hi
  | vector => cases hi
  | rdIdx =>
    obtain ⟨_, rfl⟩ | ⟨w, _, rfl⟩ := hostRead_cases h
    · exact .inr ⟨.idx, rfl⟩
    · exact .inl (by simp)
  | rdTmr =>
    obtain ⟨_, rfl⟩ | ⟨w, _, rfl⟩ := hostRead_cases h
    · exact .inr ⟨.tmr, rfl⟩
    · exact .inl (by simp)
  | rdDuty =>
    obtain ⟨_, rfl⟩ | ⟨w, _, rfl⟩ := hostRead_cases h
    · exact .inr ⟨.duty, rfl⟩
    · exact .inl (by simp)
  | rdStatus => cases h; exact .inl (by simp)
  | nop => cases h; exact .inl (by simp)
  | wrIdx v => cases h; exact .inl (by simp)
  | wrTmr v => cases h; exact .inl (by simp)
  | wrEn b => cases h; exact .inl (by simp)
  | wrTie b => cases h; exact .inl (by simp)
  | wrGie b => cases h; exact .inl (by simp)
  | wrOe b => cases h; exact .inl (by simp)
  | wrDuty hi lo => cases h; exact .inl (by simp)
  | wrDutyl lo => cases h; exact .inl (by simp)
  | dly n => cases h; exact .inl (by simp)

/-- A fetched word is performed, or raises F_ILLEGAL (R64, R91). -/
theorem runWord_cases {a : Agent} {w : OpWord} {s t : State} (h : runWord a w s = .next t) :
    (∃ i, decode a w = .ok i ∧ exec i s = .next t) ∨
      (∃ e, decode a w = .error e ∧ t = s.raise a .illegal w.toNat) := by
  unfold runWord at h
  split at h
  · rename_i i hi
    exact .inl ⟨i, hi, h⟩
  · rename_i e he
    exact .inr ⟨e, he, by simpa using h.symm⟩

/-- A fetched word always answers a next state. -/
theorem runWord_answers (a : Agent) (w : OpWord) (s : State) : ∃ t, runWord a w s = .next t := by
  unfold runWord
  split
  · exact exec_answers _ s
  · exact ⟨_, rfl⟩

/-- An agent's step is that of the word it fetches. -/
theorem agentStep_cases {a : Agent} {s t : State} (h : agentStep a s = .next t) :
    ∃ w, s.fetch a = some w ∧ runWord a w s = .next t := by
  unfold agentStep at h
  split at h
  · rename_i w hw
    exact ⟨w, hw, h⟩
  · cases h

/-- TIMER's step is TICK. -/
theorem agentStep_timer {s : State} (h : s.enabled .timer = true) : agentStep .timer s = exec .tick s := by
  simp only [agentStep, State.fetch, h, if_true]
  rfl

/-- SEQUENCER's step is VECTOR. -/
theorem agentStep_sequencer {s : State} (h : s.enabled .sequencer = true) :
    agentStep .sequencer s = exec .vector s := by
  simp only [agentStep, State.fetch, h, if_true]
  rfl

/-- What TIMER's step is (R76, R77). -/
theorem agentStep_timer_cases {s t : State} (h : agentStep .timer s = .next t) :
    s.enabled .timer = true ∧ execTick s = .next t := by
  obtain ⟨w, hw, _⟩ := agentStep_cases h
  have he := (State.fetch_cases hw).1
  rw [agentStep_timer he] at h
  exact ⟨he, h⟩

/-- What SEQUENCER's step is (R79, R81). -/
theorem agentStep_sequencer_cases {s t : State} (h : agentStep .sequencer s = .next t) :
    s.enabled .sequencer = true ∧ execVector s = .next t := by
  obtain ⟨w, hw, _⟩ := agentStep_cases h
  have he := (State.fetch_cases hw).1
  rw [agentStep_sequencer he] at h
  exact ⟨he, h⟩

/-- What a host step is: its word from HPROG[HPC], performed or raised as illegal (R90, R91). -/
theorem agentStep_host_cases {s t : State} (h : agentStep .host s = .next t) :
    s.enabled .host = true ∧ ∃ w, s.hprog[s.hpc]? = some w ∧
      ((∃ i, decode .host w = .ok i ∧ i.issuer = .host ∧ exec i s = .next t) ∨
        (∃ e, decode .host w = .error e ∧ t = s.raise .host .illegal w.toNat)) := by
  obtain ⟨w, hw, h'⟩ := agentStep_cases h
  obtain ⟨he, ⟨ha, _⟩ | ⟨ha, _⟩ | ⟨_, hp⟩⟩ := State.fetch_cases hw
  · cases ha
  · cases ha
  · refine ⟨he, w, hp, ?_⟩
    obtain ⟨i, hd, hx⟩ | hr := runWord_cases h'
    · exact .inl ⟨i, hd, issuer_of_decode_host hd, hx⟩
    · exact .inr hr

/-- A step of the run is the step of one enabled agent, on the state whose turn is taken (R12, R55). -/
theorem step_cases {s t : State} (h : step s = .next t) :
    ∃ a, s.nextAgent = some a ∧ s.enabled a = true ∧ agentStep a s.takeTurn = .next t := by
  unfold step at h
  split at h
  · cases h
  · rename_i a ha
    obtain ⟨w, hw, _⟩ := agentStep_cases h
    exact ⟨a, ha, (State.fetch_cases hw).1, h⟩

end Sys2Proof.Machine
end

