-- ==== Sys2Proof/Laws/Memory.lean ====
section
/-!
SUPPORT. The waveform ROM's laws: every memory operation keeps the canonical form, a built entry reads as built, and every other
entry reads as before.
-/

namespace Sys2Proof.Machine

theorem Memory.risingFrom_mono {m : Memory} {lo lo' : Nat} (h : lo' ≤ lo) (hm : Memory.risingFrom lo m = true) :
    Memory.risingFrom lo' m = true := by
  cases m with
  | nil => rfl
  | cons c m =>
    simp only [Memory.risingFrom, Bool.and_eq_true, decide_eq_true_eq] at hm ⊢
    exact ⟨by omega, hm.2⟩

theorem Memory.risingFrom_insert {m : Memory} {lo a : Nat} {b : Byte} (ha : lo ≤ a)
    (hm : Memory.risingFrom lo m = true) : Memory.risingFrom lo (Memory.insert m a b) = true := by
  induction m generalizing lo with
  | nil => simp [Memory.insert, Memory.risingFrom, ha]
  | cons c m ih =>
    obtain ⟨k, c⟩ := c
    simp only [Memory.risingFrom, Bool.and_eq_true, decide_eq_true_eq] at hm
    unfold Memory.insert
    by_cases h1 : a < k
    · simp only [h1, if_true, Memory.risingFrom, Bool.and_eq_true, decide_eq_true_eq]
      exact ⟨ha, by omega, hm.2⟩
    · by_cases h2 : k = a
      · subst h2
        simp [Memory.risingFrom, hm.1, hm.2]
      · simp only [h1, h2, if_false, Memory.risingFrom, Bool.and_eq_true, decide_eq_true_eq]
        exact ⟨hm.1, ih (by omega) hm.2⟩

theorem Memory.risingFrom_erase {m : Memory} {lo a : Nat} (hm : Memory.risingFrom lo m = true) :
    Memory.risingFrom lo (Memory.erase m a) = true := by
  induction m generalizing lo with
  | nil => rfl
  | cons c m ih =>
    obtain ⟨k, c⟩ := c
    simp only [Memory.risingFrom, Bool.and_eq_true, decide_eq_true_eq] at hm
    unfold Memory.erase
    by_cases h : k = a
    · simp only [h, if_true]
      exact ih (Memory.risingFrom_mono (by omega) hm.2)
    · simp only [h, if_false, Memory.risingFrom, Bool.and_eq_true, decide_eq_true_eq]
      exact ⟨hm.1, ih hm.2⟩

theorem Memory.all_insert {m : Memory} {a : Nat} {b : Byte} {p : Host.Cell → Bool} (hp : p (a, b) = true)
    (hm : m.all p = true) : (Memory.insert m a b).all p = true := by
  induction m with
  | nil => simp [Memory.insert, hp]
  | cons c m ih =>
    obtain ⟨k, c⟩ := c
    simp only [List.all_cons, Bool.and_eq_true] at hm
    unfold Memory.insert
    split
    · simp [hp, hm.1, hm.2]
    · split
      · simp [hp, hm.2]
      · simp [hm.1, ih hm.2]

theorem Memory.all_erase {m : Memory} {a : Nat} {p : Host.Cell → Bool} (hm : m.all p = true) :
    (Memory.erase m a).all p = true := by
  induction m with
  | nil => rfl
  | cons c m ih =>
    obtain ⟨k, c⟩ := c
    simp only [List.all_cons, Bool.and_eq_true] at hm
    unfold Memory.erase
    split
    · exact ih hm.2
    · simp [hm.1, ih hm.2]

/-- Building an entry keeps the canonical form. -/
theorem Memory.build_wf {m m' : Memory} {a : Nat} {b : Byte} (h : Memory.build m a b = some m')
    (hm : Memory.wf m = true) : Memory.wf m' = true := by
  unfold Memory.build at h
  unfold Memory.wf at hm ⊢
  simp only [Bool.and_eq_true] at hm ⊢
  split at h
  · rename_i ha
    by_cases hu : Memory.unlisted a = some b
    · simp only [hu, if_true, Option.some.injEq] at h
      subst h
      exact ⟨Memory.risingFrom_erase hm.1, Memory.all_erase hm.2⟩
    · simp only [hu, if_false, Option.some.injEq] at h
      subst h
      exact ⟨Memory.risingFrom_insert (Nat.zero_le a) hm.1, Memory.all_insert (by simp [hu]; exact ha) hm.2⟩
  · cases h

theorem Memory.lookup_insert (m : Memory) (a c : Nat) (b : Byte) :
    Memory.lookup (Memory.insert m a b) c = if c = a then some b else Memory.lookup m c := by
  induction m with
  | nil => simp [Memory.insert, Memory.lookup, eq_comm]
  | cons x m ih =>
    obtain ⟨k, v⟩ := x
    unfold Memory.insert
    split
    · by_cases h : c = a
      · simp [Memory.lookup, h]
      · have h' : a ≠ c := fun e => h e.symm
        simp [Memory.lookup, h, h']
    · split
      · rename_i h
        subst h
        by_cases h : c = k
        · simp [Memory.lookup, h]
        · have h' : k ≠ c := fun e => h e.symm
          simp [Memory.lookup, h, h']
      · rename_i hne
        by_cases h : k = c
        · subst h
          simp [Memory.lookup, hne]
        · simp [Memory.lookup, h, ih]

theorem Memory.lookup_erase (m : Memory) (a c : Nat) :
    Memory.lookup (Memory.erase m a) c = if c = a then none else Memory.lookup m c := by
  induction m with
  | nil => simp [Memory.erase, Memory.lookup]
  | cons x m ih =>
    obtain ⟨k, v⟩ := x
    unfold Memory.erase
    split
    · rename_i h
      subst h
      rw [ih]
      by_cases h : c = k
      · simp [h]
      · have h' : k ≠ c := fun e => h e.symm
        simp [Memory.lookup, h, h']
    · rename_i hne
      by_cases h : k = c
      · subst h
        simp [Memory.lookup, hne]
      · simp [Memory.lookup, h, ih]

/-- The entry built reads as built, and every other entry reads as before. -/
theorem Memory.sample_build {m m' : Memory} {a : Nat} {b : Byte} (h : Memory.build m a b = some m')
    (i : Fin Config.len) : Memory.sample m' i = if i.val = a then b else Memory.sample m i := by
  unfold Memory.build at h
  split at h
  · rename_i ha
    by_cases hu : Memory.unlisted a = some b
    · simp only [hu, if_true, Option.some.injEq] at h
      subst h
      by_cases hi : i.val = a
      · subst hi
        simp only [Memory.unlisted, i.isLt, dite_true, Option.some.injEq] at hu
        simp [Memory.sample, Memory.lookup_erase, hu]
      · simp [Memory.sample, Memory.lookup_erase, hi]
    · simp only [hu, if_false, Option.some.injEq] at h
      subst h
      by_cases hi : i.val = a <;> simp [Memory.sample, Memory.lookup_insert, hi]
  · cases h

/-- ROM at reset lists nothing and is canonical. -/
theorem reset_rom_wf : Memory.wf State.reset.rom = true := by decide

/-- ROM at reset is ROM_TABLE (R42). -/
theorem reset_rom_sample (i : Fin Config.len) : Memory.sample State.reset.rom i = Config.romTable i := rfl

end Sys2Proof.Machine
end

