-- ==== Sys2Proof/Laws/Observe.lean ====
section
/-!
SUPPORT. The readings of a history distribute over appended events.
-/

namespace Sys2Proof.Machine

@[simp] theorem samplesOf_append (l m : List Event) : samplesOf (l ++ m) = samplesOf l ++ samplesOf m := by
  induction l with
  | nil => rfl
  | cons e l ih => cases e <;> simp [samplesOf, ih]

@[simp] theorem serviceDuties_append (l m : List Event) :
    serviceDuties (l ++ m) = serviceDuties l ++ serviceDuties m := by
  induction l with
  | nil => rfl
  | cons e l ih =>
    cases e with
    | dutyWrite a lo hi => cases a <;> simp [serviceDuties, ih]
    | hostRead op v => simp [serviceDuties, ih]
    | sample i v => simp [serviceDuties, ih]
    | fault a c n => simp [serviceDuties, ih]

end Sys2Proof.Machine
end

