-- ==== Sys2Proof/Laws/PerInstr.lean ====
section
/-!
SUPPORT. The family EncodedFields: every instruction's word has its opcode's code, a reserved field of 0 and no
must-be-zero bit set (spec/30_encoding.md R61–R63).
-/

namespace Sys2Proof.Laws.EncodedFields

/-- The fields of an instruction's word are those its row of R63 gives. -/
def Statement (i : Instr) : Prop :=
  opcField (encode i) = opcodeBits i.opcode ∧ rsvField (encode i) = 0#4 ∧
    dataField (encode i) &&& mbzMask (formOf i.opcode) = 0#16

theorem nop : Statement .nop := by simp [Statement, encode, Instr.opcode, Instr.data]
theorem wrIdx (v : Byte) : Statement (.wrIdx v) := by
  simp [Statement, encode, Instr.opcode, Instr.data, formOf, mbzMask]
theorem wrTmr (v : Word16) : Statement (.wrTmr v) := by
  simp [Statement, encode, Instr.opcode, Instr.data, formOf, mbzMask]
theorem wrEn (b : Bool) : Statement (.wrEn b) := by
  simp [Statement, encode, Instr.opcode, Instr.data, formOf, mbzMask]
theorem wrTie (b : Bool) : Statement (.wrTie b) := by
  simp [Statement, encode, Instr.opcode, Instr.data, formOf, mbzMask]
theorem wrGie (b : Bool) : Statement (.wrGie b) := by
  simp [Statement, encode, Instr.opcode, Instr.data, formOf, mbzMask]
theorem wrOe (b : Bool) : Statement (.wrOe b) := by
  simp [Statement, encode, Instr.opcode, Instr.data, formOf, mbzMask]
theorem wrDuty (hi : BitVec 2) (lo : Byte) : Statement (.wrDuty hi lo) := by
  simp [Statement, encode, Instr.opcode, Instr.data, formOf, mbzMask]
theorem wrDutyl (lo : Byte) : Statement (.wrDutyl lo) := by
  simp [Statement, encode, Instr.opcode, Instr.data, formOf, mbzMask]
theorem rdIdx : Statement .rdIdx := by simp [Statement, encode, Instr.opcode, Instr.data]
theorem rdTmr : Statement .rdTmr := by simp [Statement, encode, Instr.opcode, Instr.data]
theorem rdDuty : Statement .rdDuty := by simp [Statement, encode, Instr.opcode, Instr.data]
theorem rdStatus : Statement .rdStatus := by simp [Statement, encode, Instr.opcode, Instr.data]
theorem dly (n : Word16) : Statement (.dly n) := by
  simp [Statement, encode, Instr.opcode, Instr.data, formOf, mbzMask]
theorem tick : Statement .tick := by simp [Statement, encode, Instr.opcode, Instr.data]
theorem vector : Statement .vector := by simp [Statement, encode, Instr.opcode, Instr.data]

end Sys2Proof.Laws.EncodedFields
end

