-- ==== Sys2Proof/Laws/Runs.lean ====
section
/-!
SUPPORT. Runs of agents' steps: taking them apart, what every step keeps, and steps that change next to nothing.
-/

namespace Sys2Proof.Machine

open Sys2Proof.Safety

/-- A run is its first step and the rest. -/
theorem agentSteps_cons {a : Agent} {as : List Agent} {s t : State} :
    agentSteps (a :: as) s = some t ↔ ∃ u, agentStep a s = .next u ∧ agentSteps as u = some t := by
  simp only [agentSteps]
  cases h : agentStep a s <;> simp

/-- A run of a list is the run of its front and then of its rest. -/
theorem agentSteps_append {as bs : List Agent} {s t : State} :
    agentSteps (as ++ bs) s = some t ↔ ∃ u, agentSteps as s = some u ∧ agentSteps bs u = some t := by
  induction as generalizing s with
  | nil => simp [agentSteps]
  | cons a as ih =>
    simp only [List.cons_append, agentSteps_cons, ih]
    exact ⟨fun ⟨u, h, v, h1, h2⟩ => ⟨v, ⟨u, h, h1⟩, h2⟩, fun ⟨v, ⟨u, h, h1⟩, h2⟩ => ⟨u, h, v, h1, h2⟩⟩

/-- What every agent's step keeps; and HPC never falls (R37, R47, R90). -/
theorem agentStep_config {a : Agent} {s t : State} (h : agentStep a s = .next t) :
    t.params = s.params ∧ t.hprog = s.hprog ∧ t.rom = s.rom ∧ s.hpc ≤ t.hpc := by
  cases a with
  | timer =>
    obtain ⟨_, _, rfl⟩ | ⟨v, _, _, rfl⟩ | ⟨_, rfl⟩ := execTick_cases (agentStep_timer_cases h).2
    · simp
    · simp [State.runningEdge_eq]
    · simp [State.stoppedEdge_eq]
  | sequencer =>
    obtain ⟨_, rfl⟩ | ⟨_, _, rfl⟩ | ⟨_, _, _, _, rfl⟩ | ⟨_, _, _, _, rfl⟩ := execVector_cases (agentStep_sequencer_cases h).2 <;>
      simp [State.service_eq]
  | host =>
    obtain ⟨_, w, _, ⟨i, _, hi, hx⟩ | ⟨e, _, rfl⟩⟩ := agentStep_host_cases h
    · obtain h | ⟨r, rfl⟩ := exec_host_cases hi hx
      · simp [h]
      · simp
    · simp

/-- With the timer stopped and no request pending, TIMER and SEQUENCER change the host delay alone (R76, R80). -/
theorem agentStep_idle {a : Agent} {s t : State} (he : s.en = false) (hf : s.ifFlag = false) (ha : a ≠ .host)
    (h : agentStep a s = .next t) :
    t = { s with hwait := t.hwait } ∧ (s.hwait = 0#16 → t.hwait = 0#16) := by
  cases a with
  | timer =>
    obtain ⟨h, _⟩ | ⟨v, h, _⟩ | ⟨_, rfl⟩ := execTick_cases (agentStep_timer_cases h).2
    · rw [he] at h; cases h
    · rw [he] at h; cases h
    · rw [State.stoppedEdge_eq]
      exact ⟨by simp [State.interruptPending, hf], fun h => if_pos h⟩
  | sequencer =>
    obtain ⟨_, rfl⟩ | ⟨h, _⟩ | ⟨_, h, _⟩ | ⟨_, _, h, _⟩ := execVector_cases (agentStep_sequencer_cases h).2
    · exact ⟨rfl, id⟩
    all_goals rw [hf] at h; cases h
  | host => exact absurd rfl ha

/-- An enabled host whose next word decodes performs it (R90). -/
theorem agentStep_host {s : State} {w : OpWord} {i : Instr} (he : s.enabled .host = true) (hw : s.hprog[s.hpc]? = some w)
    (hd : decode .host w = .ok i) : agentStep .host s = exec i s := by
  simp only [agentStep, State.fetch, he, if_true, hw, runWord, hd]

end Sys2Proof.Machine
end

