-- ==== Sys2Proof/Tests/Slice0.lean ====
section
/-!
SUPPORT. Tests: words written out from the spec's encodings, one or two small cases per instruction taken from
spec/95_test_vectors.md (their vector's name stands in each docstring), and a witness for the hypotheses of each statement.
-/

namespace Sys2Proof.Tests

open Sys2Proof.Machine Sys2Proof.Safety

/-- One field of an answer, where the answer is a next state. -/
def see {α : Type} (o : Host.Outcome State Fault Refusal) (f : State → α) : Option α :=
  match o with
  | .next t => some (f t)
  | .fault _ => none
  | .refused _ => none

/-- Both enables set and a request pending. -/
def pending : State := { State.reset with ifFlag := true, tie := true, gie := true }

/-- A state just armed: R107, with the interrupt enabled by INIT. -/
def armed : State := { State.reset with en := true, idx := some 0#8, tmr := some 65385#16, tie := true, gie := true }

/-- An armed state whose first service is pending. -/
def late : State := { armed with ifFlag := true }

/-- The host's program at the reset state. -/
def loaded (ws : List OpWord) : State := { State.reset with hprog := ws }

/-! ### Well-formed instructions -/

/-- TICK and VECTOR are not the host's (R67); host words are not TIMER's (R64). -/
theorem test_wellFormed_refuses :
    WellFormed .host .tick = false ∧ WellFormed .host .vector = false ∧ WellFormed .timer .vector = false ∧
      WellFormed .timer (.wrEn true) = false ∧ WellFormed .sequencer .nop = false ∧
      WellFormedProgram [.nop, .tick] = false ∧ WellFormedProgram [.nop, .wrEn true] = true := by decide

/-! ### Decoding -/

/-- Every host word, written out from R61–R63. -/
theorem test_decode_host_words :
    decode .host 0x000000#24 = .ok .nop ∧ decode .host 0x1000FF#24 = .ok (.wrIdx 255#8) ∧
      decode .host 0x20FF69#24 = .ok (.wrTmr 0xFF69#16) ∧ decode .host 0x300001#24 = .ok (.wrEn true) ∧
      decode .host 0x400001#24 = .ok (.wrTie true) ∧ decode .host 0x500001#24 = .ok (.wrGie true) ∧
      decode .host 0x600001#24 = .ok (.wrOe true) ∧ decode .host 0x7003FF#24 = .ok (.wrDuty 3#2 255#8) ∧
      decode .host 0x8000C8#24 = .ok (.wrDutyl 200#8) ∧ decode .host 0x900000#24 = .ok .rdIdx ∧
      decode .host 0xA00000#24 = .ok .rdTmr ∧ decode .host 0xB00000#24 = .ok .rdDuty ∧
      decode .host 0xC00000#24 = .ok .rdStatus ∧ decode .host 0xD00003#24 = .ok (.dly 3#16) := by decide

/-- X17, X18. -/
theorem test_decode_event_words :
    decode .timer 0xE00000#24 = .ok .tick ∧ decode .sequencer 0xF00000#24 = .ok .vector := by decide

/-- X2, X3, X5, X7, X8, X11, X13, X15, X16, X19. -/
theorem test_decode_illegal_words :
    decode .host 0x000001#24 = .error .mustBeZero ∧ decode .host 0x010000#24 = .error .reservedField ∧
      decode .host 0x100100#24 = .error .mustBeZero ∧ decode .host 0x2FFFFF#24 = .error .reservedField ∧
      decode .host 0x300002#24 = .error .mustBeZero ∧ decode .host 0x700400#24 = .error .mustBeZero ∧
      decode .host 0xC00001#24 = .error .mustBeZero ∧ decode .host 0xE00000#24 = .error .eventFromHost ∧
      decode .host 0xF00000#24 = .error .eventFromHost ∧ decode .timer 0xE00001#24 = .error .notTheTickWord ∧
      decode .sequencer 0x000000#24 = .error .notTheVectorWord := by decide

/-- R74. -/
theorem test_encode_words :
    encode (.wrIdx 0#8) = 0x100000#24 ∧ encode (.wrTmr 65385#16) = 0x20FF69#24 ∧ encode (.wrEn true) = 0x300001#24 ∧
      encode (.wrDuty 0#2 43#8) = 0x70002B#24 ∧ encode .rdDuty = 0xB00000#24 ∧ encode .tick = 0xE00000#24 := by decide

/-- The table's words, as the host asks for them. -/
theorem test_decodeTableWord :
    decodeTableWord 24 0x700100 = some (.wrDuty 1#2 0#8) ∧ decodeTableWord 24 0xE00000 = some .tick ∧
      decodeTableWord 24 0xF00000 = some .vector ∧ decodeTableWord 24 0xF00001 = none := by decide

/-! ### The Sample Clock -/

/-- T4, T5: the wrap sets IF, and a second overflow is lost. -/
theorem test_tick_wraps :
    see (exec .tick { State.reset with en := true, tmr := some 0xFFFF#16, hwait := 3#16 })
        (fun t => (t.tmr, t.ifFlag, t.hwait)) = some (some 0#16, true, 2#16) ∧
      see (exec .tick { State.reset with en := true, tmr := some 0xFFFF#16, ifFlag := true }) (fun t => (t.tmr, t.ifFlag)) =
        some (some 0#16, true) := by decide

/-- T6, T13: the fault before any write; LAT tests IF before the overflow sets it. -/
theorem test_tick_faults_and_latency :
    see (exec .tick { State.reset with en := true, hwait := 5#16 }) (fun t => (t.fault, t.hist, t.hwait)) =
        some (0b010#3, [.fault .timer .uninit 1], 5#16) ∧
      see (exec .tick { armed with tmr := some 0xFFFF#16 }) (fun t => (t.ifFlag, t.lat)) = some (true, 0) := by decide

/-- V4, V5, on a table whose entries 5 and 157 are given. -/
theorem test_vector_services :
    see (exec .vector { pending with idx := some 5#8, en := true, tmr := some 3#16, rom := [(5, 0x5A#8)] })
        (fun t => (t.tmr, t.dutyLo, t.idx, t.hist)) =
        some (some 65385#16, some 0x5A#8, some 6#8, [.sample 5#8 0x5A#8, .dutyWrite .sequencer 0x5A#8 none]) ∧
      see (exec .vector { pending with idx := some 157#8, en := true, rom := [(157, 7#8)] })
        (fun t => (t.dutyLo, t.idx, t.en, t.ifFlag)) = some (some 7#8, some 158#8, false, false) := by decide

/-- V1, V6, V8: the guard, F_OOB and F_UNINIT. -/
theorem test_vector_guard_and_faults :
    see (exec .vector { State.reset with idx := some 200#8 }) (fun t => (t.fault, t.hist, t.idx)) =
        some (0#3, [], some 200#8) ∧
      see (exec .vector { pending with idx := some 158#8 }) (fun t => (t.fault, t.hist, t.ifFlag, t.tmr)) =
        some (0b001#3, [.fault .sequencer .oob 158], true, none) ∧
      see (exec .vector pending) (fun t => (t.fault, t.hist)) = some (0b010#3, [.fault .sequencer .uninit 0]) := by decide

/-! ### The host's words -/

/-- W13, W1, W3. -/
theorem test_nop_wrIdx_wrTmr :
    exec .nop State.reset = .next { State.reset with hpc := 1 } ∧
      see (exec (.wrIdx 16#8) State.reset) (fun t => (t.idx, t.hpc)) = some (some 16#8, 1) ∧
      see (exec (.wrTmr 0#16) State.reset) (fun t => (t.tmr, t.hpc)) = some (some 0#16, 1) := by
  exact ⟨rfl, by decide, by decide⟩

/-- W4, W5, W6, W7. -/
theorem test_bit_writes :
    see (exec (.wrEn true) State.reset) (fun t => (t.en, t.tie, t.gie, t.oe)) = some (true, false, false, false) ∧
      see (exec (.wrTie false) pending) (fun t => (t.tie, t.ifFlag, t.gie)) = some (false, true, true) ∧
      see (exec (.wrGie true) State.reset) (fun t => (t.en, t.tie, t.gie, t.oe)) = some (false, false, true, false) ∧
      see (exec (.wrOe true) State.reset) (fun t => (t.en, t.tie, t.gie, t.oe)) = some (false, false, false, true) := by
  decide

/-- W8, W9, W10. -/
theorem test_duty_writes :
    see (exec (.wrDuty 3#2 255#8) State.reset) (fun t => (t.dutyHi, t.dutyLo, t.hist)) =
        some (some 3#2, some 255#8, [.dutyWrite .host 255#8 (some 3#2)]) ∧
      see (exec (.wrDuty 1#2 0#8) State.reset) (fun t => t.duty) = some (some 256#10) ∧
      see (exec (.wrDutyl 7#8) State.reset) (fun t => (t.dutyHi, t.dutyLo, t.hist)) =
        some (none, some 7#8, [.dutyWrite .host 7#8 none]) := by decide

/-- H1, H2, H3, H4. -/
theorem test_rdIdx_rdTmr :
    see (exec .rdIdx State.reset) (fun t => (t.fault, t.hist, t.hpc)) = some (0b010#3, [.fault .host .uninit 0], 0) ∧
      see (exec .rdIdx { State.reset with idx := some 158#8 }) (fun t => (t.hist, t.hpc)) =
        some ([.hostRead .rdIdx 158#16], 1) ∧
      see (exec .rdTmr { State.reset with tmr := some 0xFF69#16 }) (fun t => t.hist) = some [.hostRead .rdTmr 65385#16] ∧
      see (exec .rdTmr State.reset) (fun t => t.hist) = some [.fault .host .uninit 1] := by decide

/-- H5, H6. -/
theorem test_rdDuty :
    see (exec .rdDuty { State.reset with dutyHi := some 3#2, dutyLo := some 255#8 }) (fun t => t.hist) =
        some [.hostRead .rdDuty 1023#16] ∧
      see (exec .rdDuty { State.reset with dutyLo := some 43#8 }) (fun t => t.hist) = some [.fault .host .uninit 7] := by
  decide

/-- H8, H9, H11. -/
theorem test_rdStatus :
    see (exec .rdStatus { State.reset with ifFlag := true }) (fun t => t.hist) = some [.hostRead .rdStatus 0x0002#16] ∧
      see (exec .rdStatus { pending with en := true, oe := true }) (fun t => t.hist) =
        some [.hostRead .rdStatus 0x001F#16] ∧
      see (exec .rdStatus { pending with ifFlag := false, en := true, oe := true }) (fun t => t.hist) =
        some [.hostRead .rdStatus 0x001D#16] := by decide

/-- L1, L2. -/
theorem test_dly :
    see (exec (.dly 3#16) State.reset) (fun t => (t.hwait, t.hpc)) = some (3#16, 1) ∧
      exec (.dly 0#16) State.reset = exec .nop State.reset := by
  exact ⟨by decide, rfl⟩

/-! ### Enabling and steps -/

/-- T10, T11, V12, V13, V14, W14, W15, W16, W17. -/
theorem test_enabling :
    ({ pending with params := { Config.defaults with maxLatency := some 2 }, lat := 2 } : State).enabled .timer = false ∧
      ({ State.reset with fault := 1#3 } : State).enabled .timer = false ∧
      ({ pending with tie := false } : State).enabled .sequencer = false ∧
      ({ pending with tie := false, params := { Config.defaults with spuriousVectors := true } } : State).enabled
        .sequencer = true ∧
      (State.launch { Config.defaults with resetIf := true } []).enabled .sequencer = false ∧
      ({ loaded [0x000000#24] with hwait := 4#16 } : State).enabled .host = false ∧
      ({ pending with hprog := [0x000000#24], params := { Config.defaults with strictPriority := true } } : State).enabled
        .host = false ∧
      ({ pending with hprog := [0x000000#24], tie := false, params := { Config.defaults with strictPriority := true } }
        : State).enabled .host = true ∧
      ({ loaded [0x000000#24] with hpc := 1 } : State).enabled .host = false := by decide

/-- W11, W12, H10: an illegal host word, fetched and raised before anything else. -/
theorem test_illegal_host_words :
    see (agentStep .host (loaded [0x300002#24])) (fun t => (t.fault, t.hist, t.en, t.hpc)) =
        some (0b100#3, [.fault .host .illegal 0x300002], false, 0) ∧
      see (agentStep .host (loaded [0xE00000#24])) (fun t => t.hist) = some [.fault .host .illegal 0xE00000] ∧
      see (agentStep .host (loaded [0x900001#24])) (fun t => t.hist) = some [.fault .host .illegal 0x900001] := by decide

/-- The very next step after reset runs the word laid for it: a host word, TICK, VECTOR. -/
theorem test_withFetchWord :
    see (step (State.reset.withFetchWord 24 0x300001)) (fun t => (t.en, t.hpc)) = some (true, 1) ∧
      see (step ({ State.reset with en := true, tmr := some 1#16 }.withFetchWord 24 0xE00000)) (fun t => t.tmr) =
        some (some 2#16) ∧
      see (step ({ pending with idx := some 3#8 }.withFetchWord 24 0xF00000)) (fun t => t.idx) = some (some 4#8) ∧
      see (step (State.reset.withFetchWord 24 0xF00000)) (fun t => t.hist) = some [] := by decide

/-- A faulted state has no step; a schedule that names an agent without a step is no run. -/
theorem test_step_stops :
    step { State.reset with fault := 1#3 } = .fault .noAgentEnabled ∧
      step { State.reset with sched := [.host] } = .refused (.agentNotEnabled .host) := ⟨rfl, rfl⟩

/-! ### ROM, pseudo-instructions, assembler, traces -/

/-- A built entry is listed in order and read back; index 158 has no entry. -/
theorem test_memory :
    Memory.insert [(3, 1#8), (9, 2#8)] 5 7#8 = [(3, 1#8), (5, 7#8), (9, 2#8)] ∧
      Memory.read [(3, 1#8), (5, 7#8)] 5 = some 7#8 ∧ Memory.read [(3, 1#8)] 158 = none ∧
      Memory.build [] 158 0#8 = none := by decide

/-- L4, L7 and the INIT words of Program 1. -/
theorem test_pseudo :
    (expand Config.defaults (.dlyl 16000)).map encode = [0xD03E80#24] ∧
      (expand Config.defaults (.dlyl 65535)).map encode = [0xD0FFFF#24] ∧
      (expand Config.defaults .init).map encode =
        [0x600001#24, 0x300000#24, 0x500001#24, 0x400001#24, 0x600000#24, 0x70002B#24, 0x600001#24] := by decide

/-- R71's line: a label, a comment, the four spellings of an operand, and an operand out of range. -/
theorem test_assembler :
    assembleLine Config.defaults ['a', ':', ' ', 'W', 'R', '_', 'T', 'M', 'R', ' ', 'R', 'E', 'L', 'O', 'A', 'D', ' ', ';', 'x'] =
        some [0x20FF69#24] ∧
      assembleLine Config.defaults ['D', 'L', 'Y', ' ', '0', 'x', 'f', 'F'] = some [0xD000FF#24] ∧
      assembleLine Config.defaults ['W', 'R', '_', 'E', 'N', ' ', '0', 'b', '1'] = some [0x300001#24] ∧
      assembleLine Config.defaults ['W', 'R', '_', 'D', 'U', 'T', 'Y', ' ', '1', '0', '2', '4'] = none ∧
      assembleLine Config.defaults ['T', 'I', 'C', 'K'] = none ∧
      assembleLine Config.defaults ['I', 'D', 'L', 'E'] = some [0x70002B#24] := by decide

/-- R73: a short trace, host word, two TICKs, service; and one whose service is not enabled. -/
theorem test_trace :
    (runTrace [.host 0x300001#24, .ticks 2, .vector]
        { armed with en := false, tmr := some 0xFFFE#16, hprog := [0x300001#24], rom := [(0, 9#8)] }).map
        (fun t => (t.idx, t.dutyLo, t.tmr, t.hpc)) = some (some 1#8, some 9#8, some 65385#16, 1) ∧
      runTrace [.vector] armed = none := by decide

/-! ### Witnesses: for each statement with hypotheses, a state and operands that meet them -/

theorem witness_NoServiceBeforeTheHostArms :
    (Config.defaults.spuriousVectors = false ∧ Config.defaults.resetIf = false) ∧
    (∃ t, (loaded [0x500001#24, 0x300001#24]).en = false ∧ (loaded [0x500001#24, 0x300001#24]).ifFlag = false ∧
      NextWordIsNot (.wrEn true) (loaded [0x500001#24, 0x300001#24]) ∧
      agentStep .host (loaded [0x500001#24, 0x300001#24]) = .next t) ∧
    ∃ t, (∀ w ∈ ([0x500001#24, 0x300001#24] : List OpWord).take 1, decode .host w ≠ .ok (.wrEn true)) ∧
      agentSteps [.timer, .host, .timer] (State.launch Config.defaults [0x500001#24, 0x300001#24]) = some t ∧ t.hpc ≤ 1 := by
  refine ⟨⟨rfl, rfl⟩, ⟨_, rfl, rfl, ?_, rfl⟩, _, ?_, rfl, Nat.le_refl 1⟩
  · intro w hw
    cases hw
    decide
  · intro w hw
    cases List.mem_singleton.mp hw
    decide

theorem witness_StepRunsDecodedInstruction :
    ({ loaded [0x300001#24] with sched := [.host] } : State).nextAgent = some .host ∧
      ({ loaded [0x300001#24] with sched := [.host] } : State).fetch .host = some 0x300001#24 ∧
      decode .host 0x300001#24 = .ok (.wrEn true) := by decide

theorem witness_EveryEnabledAgentMayStepNext :
    pending.enabled .timer = true ∧ pending.enabled .sequencer = true ∧ (loaded [0x000000#24]).enabled .host = true := by
  decide

theorem witness_RunGoesOnExactlyWhileUnfaulted :
    (State.reset.fault = 0#3 ∧ State.reset.sched = []) ∧ ({ State.reset with fault := 2#3 } : State).fault ≠ 0#3 := by
  decide

theorem witness_ValidTraceIsARun :
    (∃ t, runSteps [(.timer, tickWord), (.timer, tickWord)] State.reset = some t) ∧
      State.reset.enabled .sequencer = false := ⟨⟨_, rfl⟩, rfl⟩

theorem witness_StepKeepsRomProgramAndParameters : ∃ t, step State.reset = .next t := ⟨_, rfl⟩

theorem witness_TickEnabledExactlyWhen :
    State.reset.enabled .timer = true ∧
      ({ pending with params := { Config.defaults with maxLatency := some 0 } } : State).enabled .timer = false := by decide

theorem witness_VectorEnabledExactlyWhen :
    pending.enabled .sequencer = true ∧ State.reset.enabled .sequencer = false := by decide

theorem witness_HostStepEnabledAndPerformed :
    (loaded [0x900000#24]).enabled .host = true ∧
      (loaded [0x900000#24]).hprog[(loaded [0x900000#24]).hpc]? = some 0x900000#24 ∧
      decode .host 0x900000#24 = .ok .rdIdx := by decide

theorem witness_DecodeOfEncodeIsTheInstruction :
    WellFormed .host (.wrDuty 3#2 255#8) = true ∧ WellFormed .timer .tick = true ∧ WellFormed .sequencer .vector = true := by
  decide

theorem witness_AcceptedWordIsTheEncoding :
    decode .host 0xD0FFFF#24 = .ok (.dly 65535#16) ∧ decode .timer 0xE00000#24 = .ok .tick := by decide

theorem witness_ReservedWordsAreIllegal :
    rsvField 0x010000#24 ≠ 0#4 ∧
      dataField 0x300002#24 &&& mbzMask (formOf (opcodeOf (opcField 0x300002#24))) ≠ 0#16 ∧
      opcField 0xE00000#24 = 0xE#4 ∧ opcField 0xF00000#24 = 0xF#4 := by decide

theorem witness_AssemblerMakesTheEncodedWord :
    1023 < operandCount (formOf .wrDuty) ∧ operandCount (formOf .wrDuty) ≤ 1024 ∧
      operandCount (formOf .tick) ≤ 0 ∧ 65535 < operandCount (formOf .dly) := by decide

theorem witness_TickEffect :
    (({ State.reset with en := true } : State).en = true ∧ ({ State.reset with en := true } : State).tmr = none) ∧
      (armed.en = true ∧ armed.tmr = some 65385#16) ∧ State.reset.en = false := by decide

theorem witness_TimerOverflowsAfterItsInterval :
    armed.en = true ∧ armed.tmr = some 65385#16 ∧ 151 ≤ 65536 - (65385#16).toNat ∧ 0 ≤ 65536 - (65385#16).toNat := by decide

theorem witness_VectorEffect :
    State.reset.ifFlag = false ∧ (pending.ifFlag = true ∧ pending.idx = none) ∧
      (({ pending with idx := some 158#8 } : State).idx = some 158#8 ∧ 158 ≤ (158#8).toNat) ∧
      (({ pending with idx := some 157#8 } : State).idx = some 157#8 ∧ (157#8).toNat < 158) := by decide

theorem witness_SelfDisarmExactlyAtTableEnd :
    (∃ t, exec .vector { pending with en := true, idx := some 157#8 } = .next t) ∧
      (∃ t, exec .vector { pending with en := true, idx := some 156#8 } = .next t) := ⟨⟨_, rfl⟩, ⟨_, rfl⟩⟩

theorem witness_ServiceLeavesAlone :
    (∃ t, exec .vector { pending with idx := some 0#8, dutyHi := some 2#2 } = .next t) ∧
      ({ pending with idx := some 0#8, dutyHi := some 2#2 } : State).ifFlag = true ∧ (0#8).toNat < 158 := by
  exact ⟨⟨_, rfl⟩, rfl, by decide⟩

theorem witness_NothingPlaysAfterTheLastSample :
    ∃ t u, exec .vector { pending with en := true, idx := some 157#8 } = .next t ∧
      agentSteps [.timer, .timer] t = some u ∧ ∀ a ∈ [Agent.timer, Agent.timer], a ≠ .host :=
  ⟨_, _, rfl, rfl, by decide⟩

theorem witness_NopEffect : (1#16) ≠ (0#16) := by decide

theorem witness_WrIdxEffect :
    ∃ t u, 158 ≤ (158#8).toNat ∧ exec (.wrIdx 158#8) pending = .next t ∧ t.ifFlag = true ∧ exec .vector t = .next u :=
  ⟨_, _, by decide, rfl, rfl, rfl⟩

theorem witness_WrTmrEffect :
    ∃ t u, armed.en = true ∧ exec (.wrTmr 0xFFFF#16) armed = .next t ∧ exec .tick t = .next u := ⟨_, _, rfl, rfl, rfl⟩

theorem witness_WrEnEffect :
    (∃ t u v, late.ifFlag = true ∧ late.idx = some 0#8 ∧ exec (.wrEn false) late = .next t ∧ exec .tick t = .next u ∧
      exec .vector t = .next v) ∧
    (∃ t u, State.reset.tmr = none ∧ exec (.wrEn true) State.reset = .next t ∧ exec .tick t = .next u) ∧
    ∃ t u, exec (.wrEn true) { late with idx := some 158#8 } = .next t ∧ exec .vector t = .next u :=
  ⟨⟨_, _, _, rfl, rfl, rfl, rfl, rfl⟩, ⟨_, _, rfl, rfl, rfl⟩, _, _, rfl, rfl⟩

theorem witness_WrTieEffect :
    ∃ t, pending.fault = 0#3 ∧ pending.ifFlag = true ∧ pending.gie = true ∧ exec (.wrTie true) pending = .next t :=
  ⟨_, rfl, rfl, rfl, rfl⟩

theorem witness_WrGieEffect :
    (∃ t, pending.params.spuriousVectors = false ∧ exec (.wrGie false) pending = .next t) ∧
    ∃ t, (loaded [0x100000#24]).gie = false ∧ (loaded [0x100000#24]).params.spuriousVectors = false ∧
      NextWordIsNot (.wrGie true) (loaded [0x100000#24]) ∧ agentStep .host (loaded [0x100000#24]) = .next t := by
  refine ⟨⟨_, rfl, rfl⟩, _, rfl, rfl, ?_, rfl⟩
  intro w hw
  cases hw
  decide

theorem witness_WrOeEffect : ∃ t u, exec (.wrOe true) armed = .next t ∧ exec (.wrOe false) armed = .next u :=
  ⟨_, _, rfl, rfl⟩

theorem witness_WrDutylEffect : ∃ t, State.reset.dutyHi = none ∧ exec (.wrDutyl 7#8) State.reset = .next t :=
  ⟨_, rfl, rfl⟩

theorem witness_RdIdxEffect : armed.idx = some 0#8 ∧ State.reset.idx = none := by decide

theorem witness_RdTmrEffect : armed.tmr = some 65385#16 ∧ State.reset.tmr = none := by decide

theorem witness_RdDutyEffect_and_DutyValueFromItsParts :
    ({ State.reset with dutyHi := some 3#2, dutyLo := some 255#8 } : State).dutyHi = some 3#2 ∧
      ({ State.reset with dutyHi := some 3#2, dutyLo := some 255#8 } : State).dutyLo = some 255#8 ∧
      ({ State.reset with dutyLo := some 43#8 } : State).dutyHi = none ∧
      ({ State.reset with dutyHi := some 0#2 } : State).dutyLo = none := by decide

theorem witness_DlyHoldsTheHostForItsTicks :
    ({ State.reset with hwait := 3#16 } : State).hwait ≠ 0#16 ∧ ({ State.reset with hwait := 3#16 } : State).en = false ∧
      3 ≤ ({ State.reset with hwait := 3#16 } : State).hwait.toNat ∧
      ({ armed with hwait := 3#16 } : State).tmr ≠ none := by decide

theorem witness_EachRegisterHasItsWriters_and_WhatTheHostCannotWrite :
    (∃ t, exec (.wrTie true) State.reset = .next t ∧ t.tie ≠ State.reset.tie) ∧
      (∃ t, exec .rdIdx State.reset = .next t ∧ Instr.rdIdx.issuer = .host) ∧
      (∃ t, exec .vector { pending with idx := some 0#8 } = .next t ∧ pending.ifFlag = true ∧ t.ifFlag = false) ∧
      (∃ t, exec .tick { armed with tmr := some 0xFFFF#16 } = .next t ∧ armed.ifFlag = false ∧ t.ifFlag = true) :=
  ⟨⟨_, rfl, by decide⟩, ⟨_, rfl, rfl⟩, ⟨_, rfl, rfl, rfl⟩, ⟨_, rfl, rfl, by decide⟩⟩

theorem witness_ReadsHaveNoEffectAndWritesAreIdempotent :
    (∃ t, exec .rdIdx armed = .next t) ∧
      ∃ t u, exec (.wrDuty 0#2 43#8) armed = .next t ∧ exec (.wrDuty 0#2 43#8) t = .next u :=
  ⟨⟨_, rfl⟩, _, _, rfl, rfl⟩

theorem witness_OutputEnableIsSeenByRdStatusAlone :
    (Instr.rdDuty ≠ .rdStatus ∧ (∀ c, Instr.rdDuty ≠ .wrOe c) ∧ ∃ t, exec .rdDuty armed = .next t) ∧
      ∃ t, exec .rdStatus armed = .next t :=
  ⟨⟨by decide, by decide, _, rfl⟩, _, rfl⟩

theorem witness_RaiseWritesOnlyFaultAndHistory : ({ armed with fault := 0b100#3 } : State).fault ≠ 0#3 := by decide

theorem witness_IllegalHostWordRaises :
    (loaded [0x300002#24]).enabled .host = true ∧
      (loaded [0x300002#24]).hprog[(loaded [0x300002#24]).hpc]? = some 0x300002#24 ∧
      decode .host 0x300002#24 = .error .mustBeZero := by decide

theorem witness_OnlyTheseStepsFault :
    (∃ t, agentStep .timer { State.reset with en := true } = .next t ∧ t.fault ≠ 0#3) ∧
      (∃ t, agentStep .sequencer pending = .next t ∧ t.fault ≠ 0#3) ∧
      (∃ t, agentStep .sequencer { pending with idx := some 158#8 } = .next t ∧ t.fault ≠ 0#3) ∧
      (∃ t, agentStep .host (loaded [0x010000#24]) = .next t ∧ t.fault ≠ 0#3) ∧
      (∃ t, agentStep .host (loaded [0xB00000#24]) = .next t ∧ t.fault ≠ 0#3) :=
  ⟨⟨_, rfl, by decide⟩, ⟨_, rfl, by decide⟩, ⟨_, rfl, by decide⟩, ⟨_, rfl, by decide⟩, ⟨_, rfl, by decide⟩⟩

theorem witness_FaultsArePrecise :
    ∃ t, agentStep .timer { State.reset with en := true } = .next t ∧ t.fault ≠ 0#3 := ⟨_, rfl, by decide⟩

theorem witness_FaultRecordInvariant :
    ∃ t, FaultRecorded { pending with sched := [.sequencer] } ∧ step { pending with sched := [.sequencer] } = .next t :=
  ⟨_, .inl ⟨rfl, rfl⟩, rfl⟩

theorem witness_IndexRangeInvariant :
    ∃ t, (IndexWritesInRange { loaded [] with idx := some 158#8 } ∧ IndexInRange { loaded [] with idx := some 158#8 }) ∧
      step { loaded [] with idx := some 158#8 } = .next t := by
  refine ⟨_, ⟨?_, ?_⟩, rfl⟩
  · intro w h; cases h
  · intro i h; cases h; decide

theorem witness_LatencyBoundInvariant :
    ∃ t, LatencyBounded { pending with params := { Config.defaults with maxLatency := some 2 }, sched := [.timer], lat := 1 } ∧
      step { pending with params := { Config.defaults with maxLatency := some 2 }, sched := [.timer], lat := 1 } = .next t :=
  ⟨_, fun l h => by cases h; decide, rfl⟩

/-- A pending service one TICK old, under a latency bound of 100. -/
def oneTickLate : State :=
  { pending with params := { Config.defaults with maxLatency := some 100 }, en := true, tmr := some 1#16, lat := 1 }

theorem witness_BoundedLatencyLosesNoOverflow : ∃ t, NoOverflowLost oneTickLate ∧ agentStep .timer oneTickLate = .next t :=
  ⟨_, ⟨rfl, rfl, ⟨100, rfl, by decide, by decide⟩, fun _ => ⟨1#16, rfl, by decide⟩⟩, rfl⟩

theorem witness_PlaybackFollowsTheTable :
    ∃ t, PlaybackAt [] 0 { armed with ifFlag := true } ∧ HostLeavesPlayback { armed with ifFlag := true } ∧
      agentStep .sequencer { armed with ifFlag := true } = .next t := by
  refine ⟨_, ⟨by decide, rfl, rfl, rfl, rfl, rfl, rfl, ?_⟩, ?_, rfl⟩
  · intro h; cases h
  · intro w i h; cases h

theorem witness_ServedAtOncePlaysTheWholeTable :
    armed.fault = 0#3 ∧ armed.en = true ∧ armed.ifFlag = false ∧ armed.tie = true ∧ armed.gie = true ∧
      armed.idx = some 0#8 ∧ armed.tmr = some armed.params.reload := by decide

theorem witness_ServiceDutiesAreTheSamples :
    ∃ t, serviceDuties armed.hist = (samplesOf armed.hist).map Prod.snd ∧ step armed = .next t := ⟨_, rfl, rfl⟩

theorem witness_FinalStatesAreStable : ∃ t, Final State.reset ∧ agentStep .timer State.reset = .next t :=
  ⟨_, ⟨rfl, rfl, rfl, rfl, rfl⟩, rfl⟩

/-- The host program is ARM's three words. -/
def armLoaded : State := loaded ((expand Config.defaults .arm).map encode)

theorem witness_ArmIsAtomicInEffect :
    (∃ t, State.reset.en = false ∧ State.reset.ifFlag = false ∧ (∀ a ∈ [Agent.timer, Agent.timer], a ≠ .host) ∧
      agentSteps [.timer, .timer] State.reset = some t) ∧
    ∃ t, armLoaded.en = false ∧ armLoaded.ifFlag = false ∧ HoldsFromHpc (expand armLoaded.params .arm) armLoaded ∧
      armLoaded.enabled .host = true ∧ (∀ a ∈ [Agent.timer] ++ [.timer, .timer], a = .timer) ∧
      agentSteps (.host :: ([.timer] ++ .host :: ([.timer, .timer] ++ [.host]))) armLoaded = some t := by
  refine ⟨⟨_, rfl, rfl, by decide, rfl⟩, _, rfl, rfl, ?_, by decide, by decide, rfl⟩
  intro k i hk
  show ((expand Config.defaults .arm).map encode)[0 + k]? = _
  rw [Nat.zero_add, List.getElem?_map]
  exact congrArg (Option.map encode) hk

/-- A launch state whose host program is INIT's words and a RD_DUTY. -/
def initLoaded (p : Config.Params) : State := State.launch p ((expand p .init ++ [Instr.rdDuty]).map encode)

theorem witness_InitLeavesTheBaselineDuty :
    (∀ p, HoldsFromHpc (expand p .init) (initLoaded p) ∧ (initLoaded p).hprog[7]? = some 0xB00000#24) ∧
    (∃ t, Config.defaults.resetIf = false ∧
      agentSteps ([.timer] ++ List.replicate 4 .host ++ [.timer] ++ List.replicate 3 .host) (initLoaded Config.defaults) = some t ∧
      t.hpc = 7 ∧ t.fault = 0#3) ∧
    ({ Config.defaults with resetIf := true } : Config.Params).resetIf = true := by
  refine ⟨fun p => ⟨?_, rfl⟩, ⟨_, rfl, rfl, rfl, rfl⟩, rfl⟩
  intro k i hk
  simp only [initLoaded, State.launch, Nat.zero_add, List.getElem?_map]
  rw [List.getElem?_append_left (List.getElem?_eq_some_iff.mp hk).1, hk]
  rfl

/-! #### A weakly fair run from the armed state: the service as soon as it is pending, else TICK -/

/-- Who steps in the witness run. -/
def fairAgent (s : State) : Agent := if s.ifFlag then .sequencer else .timer

/-- The witness run's next state. -/
def fairNext (s : State) : State :=
  match agentStep (fairAgent s) s with
  | .next t => t
  | .fault _ => s
  | .refused _ => s

/-- The witness run. -/
def fairRun : Nat → State
  | 0 => armed
  | n + 1 => fairNext (fairRun n)

/-- What holds all along the witness run. -/
def FairInv (s : State) : Prop :=
  s.fault = 0#3 ∧ s.hprog = [] ∧ s.params = Config.defaults ∧ s.tie = true ∧ s.gie = true ∧ s.tmr ≠ none ∧
    ∃ i, s.idx = some i ∧ i.toNat ≤ 158 ∧ (s.ifFlag = true → i.toNat < 158) ∧ (s.en = true → i.toNat < 158)

theorem fairInv_step {s : State} (h : FairInv s) :
    agentStep (fairAgent s) s = .next (fairNext s) ∧ FairInv (fairNext s) ∧
      (s.ifFlag = true → (fairNext s).ifFlag = false) := by
  obtain ⟨h1, h2, h3, h4, h5, h6, i, h7, h8, h9, h10⟩ := h
  by_cases hf : s.ifFlag = true
  · have ha : fairAgent s = .sequencer := by simp [fairAgent, hf]
    have he : s.enabled .sequencer = true := by
      simp [State.enabled, State.vectorEnabled, State.unfaulted, State.interruptPending, h1, hf, h4, h5]
    have hl : i.toNat < Config.len := h9 hf
    have hx : exec .vector s = .next (s.service i (Memory.sample s.rom ⟨i.toNat, hl⟩)) := by
      simp only [exec, execVector, hf, h7, if_true, hl, dite_true]
    have hn : fairNext s = s.service i (Memory.sample s.rom ⟨i.toNat, hl⟩) := by
      simp only [fairNext, ha, agentStep_sequencer he, hx]
    have hl' : i.toNat < 158 := hl
    have hi : (i + 1#8).toNat = i.toNat + 1 := by rw [BitVec.toNat_add]; simp; omega
    rw [ha, agentStep_sequencer he, hx, hn, State.service_eq]
    refine ⟨rfl, ⟨h1, h2, h3, h4, h5, by simp, i + 1#8, rfl, by omega, by simp, ?_⟩, fun _ => rfl⟩
    simp only [isLastSample, Bool.and_eq_true, Bool.not_eq_true', decide_eq_false_iff_not]
    rintro ⟨_, hne⟩
    have hne' : ¬ (i.toNat + 1 = 158) := hne
    omega
  · have ha : fairAgent s = .timer := by simp [fairAgent, hf]
    have hf' : s.ifFlag = false := by simpa using hf
    have he : s.enabled .timer = true := by
      simp [State.enabled, State.tickEnabled, State.unfaulted, State.latencyReached, h1, h3, Config.defaults]
    obtain ⟨t, ht⟩ := exec_answers .tick s
    have hn : fairNext s = t := by simp only [fairNext, ha, agentStep_timer he, ht]
    rw [ha, agentStep_timer he, hn]
    refine ⟨ht, ?_, fun h => absurd h hf⟩
    rcases execTick_cases ht with ⟨_, h, _⟩ | ⟨v, hen, _, rfl⟩ | ⟨_, rfl⟩
    · exact absurd h h6
    · rw [State.runningEdge_eq]
      exact ⟨h1, h2, h3, h4, h5, by simp, i, h7, h8, fun _ => h10 hen, h10⟩
    · rw [State.stoppedEdge_eq]
      exact ⟨h1, h2, h3, h4, h5, h6, i, h7, h8, h9, h10⟩

theorem fairRun_inv (n : Nat) : FairInv (fairRun n) := by
  induction n with
  | zero =>
    exact ⟨rfl, rfl, rfl, rfl, rfl, by simp [fairRun, armed], 0#8, rfl, by decide, (fun h => by cases h), (fun _ => by decide)⟩
  | succ n ih => exact (fairInv_step ih).2.1

theorem witness_FairRunPlaysTheWholeTable :
    IsRun fairRun (fun n => fairAgent (fairRun n)) ∧ WeaklyFair fairRun (fun n => fairAgent (fairRun n)) ∧
      (fairRun 0).en = true ∧ (fairRun 0).ifFlag = false ∧ (fairRun 0).tie = true ∧ (fairRun 0).gie = true ∧
      (fairRun 0).idx = some 0#8 ∧ (fairRun 0).tmr = some (fairRun 0).params.reload ∧
      (∀ n, (∀ m, m ≤ n → (fairRun m).en = true) → fairAgent (fairRun n) = .host → HostLeavesPlayback (fairRun n)) := by
  refine ⟨fun n => (fairInv_step (fairRun_inv n)).1, ?_, rfl, rfl, rfl, rfl, rfl, rfl, ?_⟩
  · intro a n h
    cases a with
    | timer =>
      by_cases hf : (fairRun n).ifFlag = true
      · have hn : (fairRun (n + 1)).ifFlag = false := (fairInv_step (fairRun_inv n)).2.2 hf
        exact ⟨n + 1, by omega, by simp [fairAgent, hn]⟩
      · exact ⟨n, Nat.le_refl n, by simp [fairAgent, hf]⟩
    | sequencer =>
      have he := h n (Nat.le_refl n)
      have hp := (fairRun_inv n).2.2.1
      simp only [State.enabled, State.vectorEnabled, State.interruptPending, hp, Config.defaults, Bool.or_false,
        Bool.and_eq_true] at he
      exact ⟨n, Nat.le_refl n, by simp [fairAgent, he.2.1.1]⟩
    | host =>
      have he := h n (Nat.le_refl n)
      simp [State.enabled, State.hostEnabled, (fairRun_inv n).2.1] at he
  · intro n _ ha
    by_cases hf : (fairRun n).ifFlag = true <;> simp [fairAgent, hf] at ha

end Sys2Proof.Tests
end

section
/-!
PROOFS. The scope family (spec/00_scope.md): what a step of the run is and what it keeps, and the launch state.
-/

namespace Sys2Proof.Machine

/-! ### A step of the run -/

/-- The step of the run is the next agent's step, once its turn is taken (R55). -/
theorem step_of_nextAgent {s : State} {a : Agent} (h : s.nextAgent = some a) : step s = agentStep a s.takeTurn := by
  simp only [step, h]

/-- An agent that fetches a word of its own performs the instruction the word decodes to (R12, R64). -/
theorem agentStep_of_fetch {s : State} {a : Agent} {w : OpWord} {i : Instr} (hw : s.fetch a = some w)
    (hd : decode a w = .ok i) : agentStep a s = exec i s := by
  simp only [agentStep, hw, runWord, hd]

/-- What every step of the run keeps: the parameters, the host program and the ROM (R8, R37, R47). -/
theorem step_config {s t : State} (h : step s = .next t) :
    t.params = s.params ∧ t.hprog = s.hprog ∧ t.rom = s.rom := by
  obtain ⟨a, _, _, ha⟩ := step_cases h
  obtain ⟨hparams, hhprog, hrom, _⟩ := agentStep_config ha
  exact ⟨hparams, hhprog, hrom⟩

/-! ### The launch state -/

/-- ROM reads as ROM_TABLE in every launch state (R22, R42). -/
theorem State.launch_rom_sample (p : Config.Params) (prog : List OpWord) (i : Fin Config.len) :
    Memory.sample (State.launch p prog).rom i = Config.romTable i := rfl

/-! ### The statements -/

/-- Settles O7: a step is one agent's step after a turn that writes the schedule alone, and no agent's step writes
these fields; equal ROMs read alike at every index. -/
theorem stepKeepsRomProgramAndParameters : Obligations.StepKeepsRomProgramAndParameters := by
  intro s t h
  obtain ⟨hparams, hhprog, hrom⟩ := step_config h
  exact ⟨hrom, hhprog, hparams, fun a => by rw [hrom]⟩

/-- Settles O1: ROM by the launch state's reading lemma, every other field as `State.launch` gives it. -/
theorem launchStateHoldsResetValues : Obligations.LaunchStateHoldsResetValues := by
  refine ⟨fun p prog => ⟨State.launch_rom_sample p prog, ?_⟩, rfl, rfl⟩
  simp only [State.launch, and_self]

/-- Settles O3: the turn changes no enabling condition and no program, so the next agent still fetches the same word
once its turn is taken, and performs it. -/
theorem stepRunsDecodedInstruction : Obligations.StepRunsDecodedInstruction := by
  intro s a w i ha hw hd
  have hw' : s.takeTurn.fetch a = some w := by rw [State.takeTurn_fetch, hw]
  calc step s = agentStep a s.takeTurn := step_of_nextAgent ha
    _ = exec i s.takeTurn := agentStep_of_fetch hw' hd

end Sys2Proof.Machine
end

section
/-!
PROOFS. The state family (spec/10_state.md): who writes each register, what a step adds to the history and to the fault
record, the index range, the output enable, the timer's interval, and the runs before the host arms.
-/

namespace Sys2Proof.Machine

open Sys2Proof.Safety

/-! ### The views DUTY and STATUS (R34, R40) -/

/-- The bits of the STATUS view, lowest first (R40). -/
def State.statusBit (s : State) : Nat → Bool
  | 0 => s.en
  | 1 => s.ifFlag
  | 2 => s.tie
  | 3 => s.gie
  | 4 => s.oe
  | _ + 5 => false

theorem State.getLsbD_status (s : State) (k : Nat) : s.status.getLsbD k = s.statusBit k := by
  simp only [State.status, zext16, BitVec.getLsbD_setWidth, BitVec.getLsbD_append, BitVec.getLsbD_ofBool]
  match k with
  | 0 | 1 | 2 | 3 | 4 | _ + 5 => simp [State.statusBit]

theorem State.duty_eq_some {s : State} {hi : BitVec 2} {lo : Byte} (hhi : s.dutyHi = some hi) (hlo : s.dutyLo = some lo) :
    s.duty = some (hi ++ lo) := by
  simp only [State.duty, hhi, hlo]

theorem State.duty_eq_none {s : State} (h : s.dutyHi = none ∨ s.dutyLo = none) : s.duty = none := by
  obtain hhi | hlo := h
  · cases hlo : s.dutyLo <;> simp only [State.duty, hhi, hlo]
  · cases hhi : s.dutyHi <;> simp only [State.duty, hhi, hlo]

/-- The value of two duty parts side by side (R34). -/
theorem toNat_dutyParts (hi : BitVec 2) (lo : Byte) : (hi ++ lo).toNat = hi.toNat * 256 + lo.toNat := by
  rw [BitVec.toNat_append, ← Nat.shiftLeft_add_eq_or_of_lt lo.isLt, Nat.shiftLeft_eq]

/-- Settles O36: the parts side by side, and the four cases of the view. -/
theorem dutyValueFromItsParts : Obligations.DutyValueFromItsParts :=
  ⟨fun _ hi lo hhi hlo => ⟨hi ++ lo, State.duty_eq_some hhi hlo, toNat_dutyParts hi lo⟩,
    fun _ h => State.duty_eq_none h⟩

/-- Settles O34: the logged value is the STATUS view, read bit by bit. -/
theorem rdStatusEffect : Obligations.RdStatusEffect := by
  refine ⟨by decide, fun s => ⟨s.status, rfl, ?_⟩⟩
  simp only [State.getLsbD_status]
  refine ⟨rfl, rfl, rfl, rfl, rfl, fun k hk => ?_⟩
  obtain ⟨j, rfl⟩ := Nat.exists_eq_add_of_le' hk
  rfl

/-- Settles O28: WR_OE writes OE alone, so the pin is decided by the bit written and the duty is the one before. -/
theorem wrOeEffect : Obligations.WrOeEffect := by
  refine ⟨by decide, by decide, fun _ _ => rfl, fun b s t h => ?_⟩
  cases h
  rfl

/-! ### Who writes what -/

/-- Settles O37: each host word's writes are those of its own record updates; a read raises or logs; TICK and VECTOR have
the cases of `execTick_cases` and `execVector_cases`. -/
theorem eachRegisterHasItsWriters : Obligations.EachRegisterHasItsWriters := by
  intro i s t h
  cases i with
  | nop | wrIdx _ | wrTmr _ | wrEn _ | wrTie _ | wrGie _ | wrOe _ | wrDuty _ _ | wrDutyl _ | rdStatus | dly _ =>
    cases h
    simp [Instr.issuer]
  | rdIdx | rdTmr | rdDuty =>
    obtain ⟨_, rfl⟩ | ⟨w, _, rfl⟩ := hostRead_cases h <;> simp [Instr.issuer]
  | tick =>
    obtain ⟨hen, htmr, rfl⟩ | ⟨v, _, _, rfl⟩ | ⟨_, rfl⟩ := execTick_cases h
    · simp [hen, htmr]
    · simp +contextual [State.runningEdge_eq]
    · simp [State.stoppedEdge_eq]
  | vector =>
    obtain ⟨_, rfl⟩ | ⟨_, _, rfl⟩ | ⟨_, _, _, _, rfl⟩ | ⟨i, _, _, _, rfl⟩ := execVector_cases h
    · simp
    · simp
    · simp
    · simp +contextual [State.service_eq]

/-! ### What a step adds to the history (R36, R118) -/

/-- The events an instruction that completes may log: none, a service's two, a host duty write's or a host read's one. -/
inductive Logs : Instr → List Event → Prop where
  | quiet (i : Instr) : Logs i []
  | service (k v : Byte) : Logs .vector [.sample k v, .dutyWrite .sequencer v none]
  | hostDuty {i : Instr} (hi : i.issuer = .host) (lo : Byte) (part : Option (BitVec 2)) : Logs i [.dutyWrite .host lo part]
  | hostRead {i : Instr} (hi : i.issuer = .host) (op : Opcode) (w : Word16) : Logs i [.hostRead op w]

theorem Logs.no_fault {i : Instr} {es : List Event} (h : Logs i es) : es.all (fun e => !isFaultEvent e) = true := by
  cases h <;> rfl

/-- A service writes the value of the sample it plays (R81). -/
theorem Logs.serviceDuties_eq {i : Instr} {es : List Event} (h : Logs i es) :
    serviceDuties es = (samplesOf es).map Prod.snd := by
  cases h <;> rfl

theorem Logs.samplesOf_host {i : Instr} {es : List Event} (h : Logs i es) (hi : i.issuer = .host) : samplesOf es = [] := by
  cases h with
  | service => cases hi
  | quiet | hostDuty | hostRead => rfl

/-- An instruction either keeps FAULT and logs what it may log, or raises a fault (R117, R118). -/
theorem exec_record {i : Instr} {s t : State} (h : exec i s = .next t) :
    (∃ es, Logs i es ∧ t.fault = s.fault ∧ t.hist = s.hist ++ es) ∨ ∃ c n, t = s.raise i.issuer c n := by
  cases i with
  | nop | wrIdx _ | wrTmr _ | wrEn _ | wrTie _ | wrGie _ | wrOe _ | dly _ =>
    cases h
    exact .inl ⟨[], .quiet _, by simp, by simp⟩
  | wrDuty hi lo => cases h; exact .inl ⟨_, .hostDuty rfl lo (some hi), rfl, rfl⟩
  | wrDutyl lo => cases h; exact .inl ⟨_, .hostDuty rfl lo none, rfl, rfl⟩
  | rdStatus => cases h; exact .inl ⟨_, .hostRead rfl _ s.status, rfl, rfl⟩
  | rdIdx | rdTmr | rdDuty =>
    obtain ⟨_, rfl⟩ | ⟨w, _, rfl⟩ := hostRead_cases h
    · exact .inr ⟨_, _, rfl⟩
    · exact .inl ⟨_, .hostRead rfl _ w, rfl, rfl⟩
  | tick =>
    obtain ⟨_, _, rfl⟩ | ⟨v, _, _, rfl⟩ | ⟨_, rfl⟩ := execTick_cases h
    · exact .inr ⟨_, _, rfl⟩
    · exact .inl ⟨[], .quiet _, by simp [State.runningEdge_eq], by simp [State.runningEdge_eq]⟩
    · exact .inl ⟨[], .quiet _, by simp [State.stoppedEdge_eq], by simp [State.stoppedEdge_eq]⟩
  | vector =>
    obtain ⟨_, rfl⟩ | ⟨_, _, rfl⟩ | ⟨_, _, _, _, rfl⟩ | ⟨k, _, _, _, rfl⟩ := execVector_cases h
    · exact .inl ⟨[], .quiet _, rfl, by simp⟩
    · exact .inr ⟨_, _, rfl⟩
    · exact .inr ⟨_, _, rfl⟩
    · exact .inl ⟨_, .service k _, by simp [State.service_eq], by simp [State.service_eq]; rfl⟩

/-- A step of the run starts from FAULT = 0; it completes as an instruction does, or raises one fault (R118, R119). -/
theorem step_record {s t : State} (h : step s = .next t) :
    s.fault = 0#3 ∧
      ((∃ i es, Logs i es ∧ t.fault = s.fault ∧ t.hist = s.hist ++ es) ∨
        ∃ a c n, t.fault = s.fault ||| faultBit c ∧ t.hist = s.hist ++ [.fault a c n]) := by
  obtain ⟨a, _, he, ha⟩ := step_cases h
  obtain ⟨w, _, hw⟩ := agentStep_cases ha
  refine ⟨State.unfaulted_of_enabled he, ?_⟩
  obtain ⟨i, _, hx⟩ | ⟨e, _, rfl⟩ := runWord_cases hw
  · obtain ⟨es, hes, hfault, hhist⟩ | ⟨c, n, rfl⟩ := exec_record hx
    · exact .inl ⟨i, es, hes, hfault, hhist⟩
    · exact .inr ⟨i.issuer, c, n, rfl, rfl⟩
  · exact .inr ⟨a, .illegal, w.toNat, rfl, rfl⟩

theorem faultBit_ne_zero (c : FaultCode) : faultBit c ≠ 0#3 := by
  cases c <;> decide

/-- With FAULT = 0 the record is that no Fault event is logged. -/
theorem no_fault_of_faultRecorded {s : State} (h : FaultRecorded s) (h0 : s.fault = 0#3) :
    s.hist.all (fun e => !isFaultEvent e) = true := by
  obtain ⟨_, hall⟩ | ⟨_, _, c, _, _, _, hc⟩ := h
  · exact hall
  · exact absurd (hc.symm.trans h0) (faultBit_ne_zero c)

/-- Settles O45: a step starts from FAULT = 0, so no Fault event is logged before it; it logs none, or one fault as the
last event and sets that fault's bit. -/
theorem faultRecordInvariant : Obligations.FaultRecordInvariant := by
  intro s t hs h
  obtain ⟨h0, ⟨i, es, hes, hfault, hhist⟩ | ⟨a, c, n, hfault, hhist⟩⟩ := step_record h
  · refine .inl ⟨hfault.trans h0, ?_⟩
    rw [hhist, List.all_append, no_fault_of_faultRecorded hs h0, hes.no_fault, Bool.and_self]
  · exact .inr ⟨s.hist, a, c, n, hhist, no_fault_of_faultRecorded hs h0, by rw [hfault, h0, BitVec.zero_or]⟩

/-- Settles O53: the events a step logs have the two sequences equal, and both readings distribute over appending. -/
theorem serviceDutiesAreTheSamples : Obligations.ServiceDutiesAreTheSamples := by
  intro s t hs h
  obtain ⟨_, ⟨i, es, hes, _, hhist⟩ | ⟨a, c, n, _, hhist⟩⟩ := step_record h
  · simp [hhist, hs, hes.serviceDuties_eq]
  · simp [hhist, hs, serviceDuties, samplesOf]

/-! ### The index range (R24, R161) -/

/-- A VECTOR keeps the index in range: it services only entries below 158. -/
theorem execVector_indexInRange {s t : State} (hs : IndexInRange s) (h : execVector s = .next t) : IndexInRange t := by
  obtain ⟨_, rfl⟩ | ⟨_, _, rfl⟩ | ⟨_, _, _, _, rfl⟩ | ⟨i, hi, _, _, rfl⟩ := execVector_cases h
  · exact hs
  · exact hs
  · exact hs
  · intro j hj
    simp only [State.service_eq, Option.some.injEq] at hj
    subst hj
    rw [len_eq] at hi ⊢
    rw [BitVec.toNat_add_of_lt (by simp; omega)]
    simp; omega

/-- An instruction keeps the index in range, where a WR_IDX writes a value in range. -/
theorem exec_indexInRange {i : Instr} {s t : State} (hw : ∀ v, i = .wrIdx v → v.toNat ≤ Config.len)
    (hs : IndexInRange s) (h : exec i s = .next t) : IndexInRange t := by
  obtain ⟨hidx, _⟩ := eachRegisterHasItsWriters i s t h
  by_cases hkeep : t.idx = s.idx
  · intro j hj
    exact hs j (hkeep ▸ hj)
  · obtain rfl | ⟨v, rfl⟩ := hidx hkeep
    · exact execVector_indexInRange hs h
    · cases h
      intro j hj
      cases hj
      exact hw v rfl

/-- An agent's step keeps the index in range, where every index the host program writes is. -/
theorem agentStep_indexInRange {a : Agent} {s t : State} (hprog : IndexWritesInRange s) (hs : IndexInRange s)
    (h : agentStep a s = .next t) : IndexInRange t := by
  cases a with
  | timer => exact exec_indexInRange (i := .tick) nofun hs (agentStep_timer_cases h).2
  | sequencer => exact execVector_indexInRange hs (agentStep_sequencer_cases h).2
  | host =>
    obtain ⟨_, w, hw, ⟨i, hd, _, hx⟩ | ⟨_, _, rfl⟩⟩ := agentStep_host_cases h
    · refine exec_indexInRange (fun v hv => ?_) hs hx
      exact hprog w (List.mem_of_getElem? hw) v (hv ▸ hd)
    · exact hs

/-- Settles O47: no step writes the host program, and the turn taken before the agent's step writes neither it nor IDX. -/
theorem indexRangeInvariant : Obligations.IndexRangeInvariant := by
  rintro s t ⟨hprog, hs⟩ h
  obtain ⟨_, hkeep, _⟩ := step_config h
  obtain ⟨a, _, _, ha⟩ := step_cases h
  refine ⟨?_, agentStep_indexInRange (s := s.takeTurn) hprog hs ha⟩
  unfold IndexWritesInRange
  rwa [hkeep]

/-- Settles O46: FAULT, HIST, IDX and LAT are at their reset values, and the ROM lists nothing. -/
theorem launchMeetsTheInvariants : Obligations.LaunchMeetsTheInvariants :=
  fun _ _ => ⟨.inl ⟨rfl, rfl⟩, nofun, fun l _ => Nat.zero_le l, rfl⟩

/-! ### The output enable (R31, R104) -/

/-- No agent's enabling reads OE. -/
theorem State.setOe_enabled (s : State) (b : Bool) (a : Agent) : (s.setOe b).enabled a = s.enabled a := by
  cases a <;> rfl

/-- A host read of a value other than STATUS commutes with a change of OE. -/
theorem hostRead_setOe {op : Opcode} {r : Reg} {v : Option Word16} {s t : State} (b : Bool)
    (h : hostRead op r v s = .next t) : hostRead op r v (s.setOe b) = .next (t.setOe b) := by
  obtain ⟨rfl, rfl⟩ | ⟨w, rfl, rfl⟩ := hostRead_cases h <;> rfl

/-- TICK commutes with a change of OE. -/
theorem execTick_setOe {s t : State} (b : Bool) (h : execTick s = .next t) :
    execTick (s.setOe b) = .next (t.setOe b) := by
  obtain ⟨hen, htmr, rfl⟩ | ⟨v, hen, htmr, rfl⟩ | ⟨hen, rfl⟩ := execTick_cases h
  · simp only [execTick, State.setOe_en, State.setOe_tmr, hen, htmr]
    rfl
  · simp only [execTick, State.setOe_en, State.setOe_tmr, hen, htmr, State.runningEdge_eq]
    rfl
  · simp only [execTick, State.setOe_en, hen, State.stoppedEdge_eq]
    rfl

/-- VECTOR commutes with a change of OE. -/
theorem execVector_setOe {s t : State} (b : Bool) (h : execVector s = .next t) :
    execVector (s.setOe b) = .next (t.setOe b) := by
  obtain ⟨hf, rfl⟩ | ⟨hf, hidx, rfl⟩ | ⟨i, hf, hidx, hi, rfl⟩ | ⟨i, hi, hf, hidx, rfl⟩ := execVector_cases h
  · simp [execVector, hf]
  · simp only [execVector, State.setOe_ifFlag, State.setOe_idx, hf, hidx, if_true]
    rfl
  · simp only [execVector, State.setOe_ifFlag, State.setOe_idx, hf, hidx, if_true, dif_neg (Nat.not_lt.mpr hi)]
    rfl
  · simp only [execVector, State.setOe_ifFlag, State.setOe_idx, hf, hidx, if_true, dif_pos hi, State.service_eq]
    rfl

/-- An instruction that is neither WR_OE nor RD_STATUS commutes with a change of OE. -/
theorem exec_setOe {i : Instr} {s t : State} (b : Bool) (hstatus : i ≠ .rdStatus) (hoe : ∀ c, i ≠ .wrOe c)
    (h : exec i s = .next t) : exec i (s.setOe b) = .next (t.setOe b) := by
  cases i with
  | rdStatus => exact absurd rfl hstatus
  | wrOe c => exact absurd rfl (hoe c)
  | nop | wrIdx _ | wrTmr _ | wrEn _ | wrTie _ | wrGie _ | wrDuty _ _ | wrDutyl _ | dly _ => cases h; rfl
  | rdIdx | rdTmr | rdDuty => exact hostRead_setOe b h
  | tick => exact execTick_setOe b h
  | vector => exact execVector_setOe b h

/-- OE is bit 4 of the STATUS view and no other (R40). -/
theorem State.getLsbD_status_setOe (s : State) (b : Bool) {k : Nat} (hk : k ≠ 4) :
    (s.setOe b).status.getLsbD k = s.status.getLsbD k := by
  simp only [State.getLsbD_status]
  match k, hk with
  | 0, _ | 1, _ | 2, _ | 3, _ | _ + 5, _ => rfl

/-- Settles O40: every other instruction commutes with a change of OE; WR_OE overwrites it; RD_STATUS logs the view, in
which it is bit 4; enabling does not read it. -/
theorem outputEnableIsSeenByRdStatusAlone : Obligations.OutputEnableIsSeenByRdStatusAlone := by
  refine ⟨fun i s t b hstatus hoe h => exec_setOe b hstatus hoe h, fun c b s => rfl, fun s t b h => ?_,
    fun s b a => s.setOe_enabled b a⟩
  cases h
  exact ⟨s.status, (s.setOe b).status, rfl, rfl, fun k hk => s.getLsbD_status_setOe b hk⟩

/-! ### Several TICKs in a row (R76, R135) -/

/-- A TICK and the TICKs after it. -/
theorem ticks_succ {s u : State} (n : Nat) (h : exec .tick s = .next u) : ticks (n + 1) s = ticks n u := by
  simp only [ticks, List.replicate_succ, execAll, h]

/-- Where a TICK changes nothing, no number of TICKs does. -/
theorem ticks_of_fixed {s : State} (h : exec .tick s = .next s) (n : Nat) : ticks n s = some s := by
  induction n with
  | zero => rfl
  | succ n ih => rw [ticks_succ n h, ih]

/-- A TICK of the running timer (R76). -/
theorem exec_tick_running {s : State} {v : Word16} (hen : s.en = true) (htmr : s.tmr = some v) :
    exec .tick s = .next (s.countDelay.countLatency.countTimer v) := by
  simp only [exec, execTick, hen, htmr]

/-- Settles O17, by induction on the number of TICKs: the first of them leaves `v + 1`, and the interval that is left is one
shorter, or a whole turn of the timer where the first one overflows. -/
theorem timerOverflowsAfterItsInterval : Obligations.TimerOverflowsAfterItsInterval := by
  intro s v n
  induction n generalizing s v with
  | zero =>
    intro hen htmr _
    have hv := v.isLt
    exact ⟨s, rfl, by simpa using htmr, hen, (or_iff_left (by omega)).symm⟩
  | succ n ih =>
    intro hen htmr hn
    have hnext : (v + 1#16).toNat = (v.toNat + 1) % 65536 := BitVec.toNat_add v 1#16
    have hv := v.isLt
    have hover : v = 0xFFFF#16 ↔ v.toNat = 65535 := BitVec.toNat_inj.symm
    obtain ⟨t, ht, htmr', hen', hif⟩ :=
      ih (s.countDelay.countLatency.countTimer v) (v + 1#16) (by simp [State.runningEdge_eq, hen])
        (by simp [State.runningEdge_eq]) (by omega)
    refine ⟨t, (ticks_succ n (exec_tick_running hen htmr)).trans ht, ?_, hen', ?_⟩
    · rw [htmr', BitVec.add_assoc, ← BitVec.ofNat_add, Nat.add_comm 1 n]
    · rw [hif]
      simp only [State.runningEdge_eq, timerOverflows, Bool.or_eq_true, decide_eq_true_eq, hover, or_assoc]
      exact or_congr_right (by omega)

/-! ### Before the host arms (R79, R142) -/

/-- Without a pending, enabled interrupt and without spurious entries no VECTOR is enabled (R79). -/
theorem State.sequencer_disabled {s : State} (hp : s.interruptPending = false) (hsp : s.params.spuriousVectors = false) :
    s.enabled .sequencer = false := by
  simp [State.enabled, State.vectorEnabled, hp, hsp]

/-- The timer is stopped, no request is pending and spurious entries are excluded. -/
def Unarmed (s : State) : Prop :=
  s.en = false ∧ s.ifFlag = false ∧ s.params.spuriousVectors = false

theorem Unarmed.sequencer_disabled {s : State} (h : Unarmed s) : s.enabled .sequencer = false := by
  obtain ⟨_, hf, hsp⟩ := h
  exact State.sequencer_disabled (by simp [State.interruptPending, hf]) hsp

/-- A host instruction other than WR_EN 1 keeps EN = 0 and plays nothing. -/
theorem exec_host_quiet {i : Instr} {s t : State} (hi : i.issuer = .host) (harm : i ≠ .wrEn true) (hen : s.en = false)
    (h : exec i s = .next t) : t.en = false ∧ samplesOf t.hist = samplesOf s.hist := by
  obtain ⟨_, _, hwriter, _⟩ := eachRegisterHasItsWriters i s t h
  refine ⟨?_, ?_⟩
  · by_cases hkeep : t.en = s.en
    · exact hkeep.trans hen
    · obtain ⟨_, hoff⟩ | ⟨b, rfl⟩ := hwriter hkeep
      · exact hoff
      · cases h
        cases b with
        | false => rfl
        | true => exact absurd rfl harm
  · obtain ⟨es, hes, _, hhist⟩ | ⟨c, n, rfl⟩ := exec_record h
    · rw [hhist, samplesOf_append, hes.samplesOf_host hi, List.append_nil]
    · simp [samplesOf]

/-- No agent's step but the host's WR_EN 1 arms, requests or plays anything (R76, R142). -/
theorem agentStep_unarmed {a : Agent} {s t : State} (hs : Unarmed s) (hword : a = .host → NextWordIsNot (.wrEn true) s)
    (h : agentStep a s = .next t) : Unarmed t ∧ samplesOf t.hist = samplesOf s.hist := by
  obtain ⟨hen, hf, hsp⟩ := hs
  by_cases ha : a = .host
  · subst ha
    obtain ⟨hparams, _⟩ := agentStep_config h
    obtain ⟨_, w, hw, ⟨i, hd, hi, hx⟩ | ⟨e, _, rfl⟩⟩ := agentStep_host_cases h
    · obtain ⟨hen', hplay⟩ := exec_host_quiet hi (fun hc => hword rfl w hw (hc ▸ hd)) hen hx
      refine ⟨⟨hen', ?_, hparams ▸ hsp⟩, hplay⟩
      obtain ⟨_, _, hkeep, _⟩ | ⟨r, rfl⟩ := exec_host_cases hi hx
      · exact hkeep.trans hf
      · exact hf
    · exact ⟨⟨hen, hf, hsp⟩, by simp [samplesOf]⟩
  · obtain ⟨ht, _⟩ := agentStep_idle hen hf ha h
    rw [ht]
    exact ⟨⟨hen, hf, hsp⟩, rfl⟩

/-- HPC never falls in a run (R90). -/
theorem agentSteps_hpc_le {as : List Agent} {s t : State} (h : agentSteps as s = some t) : s.hpc ≤ t.hpc := by
  induction as generalizing s with
  | nil => cases h; exact Nat.le_refl _
  | cons a as ih =>
    obtain ⟨u, hu, hrest⟩ := agentSteps_cons.mp h
    obtain ⟨_, _, _, hle⟩ := agentStep_config hu
    exact hle.trans (ih hrest)

/-- A host step after which HPC is at most `k`, in a program whose first `k` words hold no WR_EN 1, performs none: the word
it performs completes, so it is one of the first `k`. -/
theorem nextWordIsNot_wrEn {k : Nat} {s u : State} (hprog : ∀ w ∈ s.hprog.take k, decode .host w ≠ .ok (.wrEn true))
    (h : agentStep .host s = .next u) (hk : u.hpc ≤ k) : NextWordIsNot (.wrEn true) s := by
  intro w hw hd
  obtain ⟨he, _⟩ := agentStep_host_cases h
  rw [agentStep_host he hw hd] at h
  cases h
  have hlt : s.hpc < k := hk
  exact hprog w (List.mem_of_getElem? ((List.getElem?_take_of_lt hlt).trans hw)) hd

/-- A run that ends with HPC at most `k`, in a program whose first `k` words hold no WR_EN 1, arms and plays nothing. -/
theorem agentSteps_unarmed {as : List Agent} {k : Nat} {s t : State} (hs : Unarmed s)
    (hprog : ∀ w ∈ s.hprog.take k, decode .host w ≠ .ok (.wrEn true)) (h : agentSteps as s = some t) (hk : t.hpc ≤ k) :
    Unarmed t ∧ samplesOf t.hist = samplesOf s.hist := by
  induction as generalizing s with
  | nil => cases h; exact ⟨hs, rfl⟩
  | cons a as ih =>
    obtain ⟨u, hu, hrest⟩ := agentSteps_cons.mp h
    obtain ⟨_, hkeep, _⟩ := agentStep_config hu
    have hku : u.hpc ≤ k := (agentSteps_hpc_le hrest).trans hk
    obtain ⟨hu', hplay⟩ := agentStep_unarmed hs (fun ha => nextWordIsNot_wrEn hprog (ha ▸ hu) hku) hu
    obtain ⟨ht, hplay'⟩ := ih hu' (hkeep ▸ hprog) hrest
    exact ⟨ht, hplay'.trans hplay⟩

/-- A TICK leaves a launch state as it is: the timer is stopped, no delay runs and both enables are 0 (R42, R76). -/
theorem exec_tick_launch (p : Config.Params) (prog : List OpWord) :
    exec .tick (State.launch p prog) = .next (State.launch p prog) := by
  simp [exec, execTick, State.stoppedEdge_eq, State.interruptPending, State.launch]

/-- Settles O2: a launch state is fixed by TICK and its enables mask the service; the step lemma and its run. -/
theorem noServiceBeforeTheHostArms : Obligations.NoServiceBeforeTheHostArms := by
  refine ⟨fun p prog n hsp => ?_, fun a s t hen hf hsp hword h => ?_, fun p prog k as t hsp hif hprog h hk => ?_⟩
  · refine ⟨ticks_of_fixed (exec_tick_launch p prog) n, State.sequencer_disabled ?_ hsp⟩
    simp [State.interruptPending, State.launch]
  · obtain ⟨ht, _⟩ := agentStep_unarmed ⟨hen, hf, hsp⟩ hword h
    have hdisabled := ht.sequencer_disabled
    obtain ⟨hen', hf', hsp'⟩ := ht
    exact ⟨hen', hf', hsp', hdisabled⟩
  · have hlaunch : Unarmed (State.launch p prog) := ⟨rfl, hif, hsp⟩
    obtain ⟨ht, hplay⟩ := agentSteps_unarmed hlaunch hprog h hk
    have hdisabled := ht.sequencer_disabled
    obtain ⟨hen, hf, _⟩ := ht
    exact ⟨hen, hf, hdisabled, hplay⟩

end Sys2Proof.Machine
end

section
/-!
PROOFS. The memory family (spec/20_memory.md): the schedule's head steps next (R55), and what host reads and repeated host
writes leave as it was (R52).
-/

namespace Sys2Proof.Machine

/-! ### The order of steps (R55) -/

/-- With some agent enabled, the agent at the schedule's head is the next one. -/
theorem State.nextAgent_of_sched {s : State} {a b : Agent} {rest : List Agent} (he : s.enabled b = true)
    (hs : s.sched = a :: rest) : s.nextAgent = some a := by
  have hmem : b ∈ s.enabledAgents := (s.mem_enabledAgents b).mpr he
  obtain ⟨c, cs, hc⟩ := List.exists_cons_of_ne_nil (List.ne_nil_of_mem hmem)
  simp only [State.nextAgent, hc, hs]

/-- An enabled agent's step answers a next state: it fetches a word, and every fetched word is answered. -/
theorem agentStep_answers {s : State} {a : Agent} (h : s.enabled a = true) : ∃ t, agentStep a s = .next t := by
  obtain ⟨w, hw⟩ := State.fetch_of_enabled h
  simp only [agentStep, hw]
  exact runWord_answers a w s

/-- No agent's enabling reads the schedule. -/
theorem State.enabled_sched (s : State) (as : List Agent) (a : Agent) :
    ({ s with sched := as } : State).enabled a = s.enabled a := by
  cases a <;> rfl

/-- Settles O4: the named agent is the next one, its turn uses up the head alone, and it is still enabled once the turn is
taken. -/
theorem everyEnabledAgentMayStepNext : Obligations.EveryEnabledAgentMayStepNext := by
  intro s a rest h
  have he : ({ s with sched := a :: rest } : State).enabled a = true := (s.enabled_sched _ a).trans h
  have ht : ({ s with sched := a :: rest } : State).takeTurn.enabled a = true := (State.takeTurn_enabled _ a).trans he
  exact ⟨step_of_nextAgent (State.nextAgent_of_sched he rfl), agentStep_answers ht⟩

/-! ### Reads and repeated writes (R52) -/

/-- A host read writes HIST, and HPC where it completes or FAULT where it faults. -/
theorem hostRead_frame {op : Opcode} {r : Reg} {v : Option Word16} {s t : State} (h : hostRead op r v s = .next t) :
    t = { s with hist := t.hist, hpc := t.hpc, fault := t.fault } := by
  obtain ⟨_, rfl⟩ | ⟨w, _, rfl⟩ := hostRead_cases h <;> rfl

/-- A host word that is no read writes the same values when it is performed again: what it writes does not depend on what
it wrote. -/
theorem exec_write_twice {i : Instr} {s t u : State} (hi : i.issuer = .host) (hidx : i ≠ .rdIdx) (htmr : i ≠ .rdTmr)
    (hduty : i ≠ .rdDuty) (hstatus : i ≠ .rdStatus) (ht : exec i s = .next t) (hu : exec i t = .next u) :
    u = { t with hist := u.hist, hpc := u.hpc } := by
  cases i with
  | tick | vector => cases hi
  | rdIdx => exact absurd rfl hidx
  | rdTmr => exact absurd rfl htmr
  | rdDuty => exact absurd rfl hduty
  | rdStatus => exact absurd rfl hstatus
  | nop | wrIdx _ | wrTmr _ | wrEn _ | wrTie _ | wrGie _ | wrOe _ | wrDuty _ _ | wrDutyl _ | dly _ =>
    cases ht
    cases hu
    rfl

/-- Settles O39: the four reads are host reads, which have one frame; a write performed again writes the same values. -/
theorem readsHaveNoEffectAndWritesAreIdempotent : Obligations.ReadsHaveNoEffectAndWritesAreIdempotent := by
  refine ⟨fun i s t hread h => ?_, fun i s t u hi hidx htmr hduty hstatus ht hu =>
    exec_write_twice hi hidx htmr hduty hstatus ht hu⟩
  obtain rfl | rfl | rfl | rfl := hread
  · exact hostRead_frame (op := .rdIdx) (r := .idx) h
  · exact hostRead_frame (op := .rdTmr) (r := .tmr) h
  · exact hostRead_frame (op := .rdDuty) (r := .duty) h
  · exact hostRead_frame (op := .rdStatus) (r := .status) (v := some s.status) h

end Sys2Proof.Machine
end

section
/-!
PROOFS. The encoding family (spec/30_encoding.md): the word and its instruction (R61–R71).
-/

namespace Sys2Proof

open Sys2Proof.Machine

/-! ### The decoder reads back every word (R61–R64) -/

theorem encode_fields : ∀ i : Instr, Laws.EncodedFields.Statement i
  | .nop => Laws.EncodedFields.nop
  | .wrIdx v => Laws.EncodedFields.wrIdx v
  | .wrTmr v => Laws.EncodedFields.wrTmr v
  | .wrEn b => Laws.EncodedFields.wrEn b
  | .wrTie b => Laws.EncodedFields.wrTie b
  | .wrGie b => Laws.EncodedFields.wrGie b
  | .wrOe b => Laws.EncodedFields.wrOe b
  | .wrDuty hi lo => Laws.EncodedFields.wrDuty hi lo
  | .wrDutyl lo => Laws.EncodedFields.wrDutyl lo
  | .rdIdx => Laws.EncodedFields.rdIdx
  | .rdTmr => Laws.EncodedFields.rdTmr
  | .rdDuty => Laws.EncodedFields.rdDuty
  | .rdStatus => Laws.EncodedFields.rdStatus
  | .dly n => Laws.EncodedFields.dly n
  | .tick => Laws.EncodedFields.tick
  | .vector => Laws.EncodedFields.vector

theorem dataField_encode (i : Instr) : dataField (encode i) = i.data := dataField_packWord _ _

theorem eq_tick_of_issuer {i : Instr} (h : i.issuer = .timer) : i = .tick := by
  cases i with
  | tick => rfl
  | _ => cases h

theorem eq_vector_of_issuer {i : Instr} (h : i.issuer = .sequencer) : i = .vector := by
  cases i with
  | vector => rfl
  | _ => cases h

/-- A host instruction's code is no event's (R63, R67). -/
theorem opcodeBits_of_host {i : Instr} (h : i.issuer = .host) :
    ¬ (opcodeBits i.opcode = 0xE#4 ∨ opcodeBits i.opcode = 0xF#4) := by
  cases i with
  | tick | vector => cases h
  | _ => simp only [Instr.opcode]; decide

/-- Every test of the decoder passes on the word of an instruction its agent may issue (R64). -/
theorem decode_encode (i : Instr) : decode i.issuer (encode i) = .ok i := by
  obtain ⟨hopc, hrsv, hmbz⟩ := encode_fields i
  refine (decode_ok_iff _ _ _).mpr ⟨hrsv, ?_, ?_, ?_, ?_, ?_⟩
  · rintro ⟨hi, hevent⟩
    rw [hopc] at hevent
    exact opcodeBits_of_host hi hevent
  · rintro ⟨hi, hne⟩
    cases eq_tick_of_issuer hi
    exact hne (by decide)
  · rintro ⟨hi, hne⟩
    cases eq_vector_of_issuer hi
    exact hne (by decide)
  · rwa [hopc, opcodeOf_opcodeBits]
  · rw [hopc, opcodeOf_opcodeBits, dataField_encode, instrOf_opcode_data]

/-- Settles O11: a well-formed instruction's agent is its issuer, for whom its word is accepted. -/
theorem decodeOfEncodeIsTheInstruction : Obligations.DecodeOfEncodeIsTheInstruction := by
  intro a i h
  obtain rfl : i.issuer = a := of_decide_eq_true h
  exact decode_encode i

/-! ### An accepted word is the encoding (R68) -/

/-- The operation a name selects with a DATA free of must-be-zero bits has the name's code and that DATA (R62, R71). -/
theorem encode_instrOf {o : Opcode} {d : Word16} (h : d &&& mbzMask (formOf o) = 0#16) :
    encode (instrOf o d) = packWord (opcodeBits o) d := by
  obtain ⟨hdata, hopcode⟩ := data_instrOf h
  rw [encode, hdata, hopcode]

/-- The agent whose word decodes to an instruction is the instruction's issuer: TIMER and SEQUENCER have one word each, and
the host's events are refused (R64, R67, R69). -/
theorem issuer_of_decode {a : Agent} {w : OpWord} {i : Instr} (h : decode a w = .ok i) : i.issuer = a := by
  obtain ⟨_, _, htick, hvector, _, _⟩ := (decode_ok_iff _ _ _).mp h
  cases a with
  | host => exact issuer_of_decode_host h
  | timer =>
    obtain rfl : w = tickWord := by simpa using htick
    cases h
    rfl
  | sequencer =>
    obtain rfl : w = vectorWord := by simpa using hvector
    cases h
    rfl

/-- Settles O12: the fields of an accepted word are those of the instruction's own word, and a word is its fields. -/
theorem acceptedWordIsTheEncoding : Obligations.AcceptedWordIsTheEncoding := by
  intro a w i h
  refine ⟨?_, decide_eq_true (issuer_of_decode h)⟩
  obtain ⟨hrsv, _, _, _, hmbz, rfl⟩ := (decode_ok_iff _ _ _).mp h
  rw [encode_instrOf hmbz, opcodeBits_opcodeOf, packWord_fields hrsv]

/-! ### Illegal words (R65–R67) -/

theorem decode_error_of_not_ok {a : Agent} {w : OpWord} (h : ∀ i, decode a w ≠ .ok i) : ∃ e, decode a w = .error e := by
  cases hd : decode a w with
  | ok i => exact absurd hd (h i)
  | error e => exact ⟨e, rfl⟩

/-- Settles O13: each kind of word fails one of the tests an accepted word passes. -/
theorem reservedWordsAreIllegal : Obligations.ReservedWordsAreIllegal := by
  refine ⟨fun a w h => decode_error_of_not_ok fun i hi => ?_, fun a w h => decode_error_of_not_ok fun i hi => ?_,
    fun w h => decode_error_of_not_ok fun i hi => ?_, by decide, by decide⟩
  all_goals obtain ⟨hrsv, hevent, _, _, hmbz, _⟩ := (decode_ok_iff _ _ _).mp hi
  · exact h hrsv
  · exact h hmbz
  · exact hevent ⟨rfl, h⟩

/-- Settles O14: the decoder evaluated on each word. -/
theorem specWordsDecode : Obligations.SpecWordsDecode := by
  unfold Obligations.SpecWordsDecode
  decide

/-! ### The assembler's words (R71) -/

/-- A number below `2 ^ k` has no bit of a mask that begins at bit `k`. -/
theorem ofNat_and_highMask {k n : Nat} {m : Word16} (hm : ∀ j, m.getLsbD j = decide (k ≤ j ∧ j < 16)) (hn : n < 2 ^ k) :
    BitVec.ofNat 16 n &&& m = 0#16 := by
  refine BitVec.eq_of_getLsbD_eq fun j _ => ?_
  rw [BitVec.getLsbD_and, hm, BitVec.getLsbD_zero, BitVec.getLsbD_ofNat]
  by_cases hk : k ≤ j
  · rw [Nat.testBit_lt_two_pow (hn.trans_le (Nat.pow_le_pow_right Nat.two_pos hk)), Bool.and_false, Bool.false_and]
  · simp [hk]

/-- An operand in range has no must-be-zero bit of its form (R62, R71). -/
theorem ofNat_mbz {f : Form} {n : Nat} (h : n < operandCount f) : BitVec.ofNat 16 n &&& mbzMask f = 0#16 := by
  cases f with
  | none => exact absurd h (Nat.not_lt_zero n)
  | b1 => exact ofNat_and_highMask getLsbD_bitMask h
  | u8 => exact ofNat_and_highMask getLsbD_byteMask h
  | u10 => exact ofNat_and_highMask getLsbD_dutyMask h
  | u16 => exact BitVec.and_zero

/-- Settles O15: an operand in range is a DATA its operation keeps, and the packed word is the two fields in their places. -/
theorem assemblerMakesTheEncodedWord : Obligations.AssemblerMakesTheEncodedWord := by
  refine ⟨fun o n h => ?_, fun o n h => ?_⟩
  · rw [encode_instrOf (ofNat_mbz h)]
    exact ⟨if_pos h, packWord_or _ _⟩
  · exact if_neg (Nat.not_lt.mpr h)

end Sys2Proof
end

section
/-!
PROOFS. The encoding family, its traces and pseudo-instructions (spec/30_encoding.md R72, R73): a trace as a run, DLYL's delays,
and the runs that perform ARM's and INIT's words with steps of TIMER and SEQUENCER between them.
-/

namespace Sys2Proof.Machine

open Sys2Proof.Safety

/-! ### Traces (R73) -/

/-- A valid trace is its first step, with the word its agent fetches, and the rest. -/
theorem runSteps_cons {a : Agent} {w : OpWord} {ws : List (Agent × OpWord)} {s t : State} :
    runSteps ((a, w) :: ws) s = some t ↔
      s.fetch a = some w ∧ ∃ u, runWord a w s = .next u ∧ runSteps ws u = some t := by
  by_cases hw : s.fetch a = some w
  · simp only [runSteps, hw, if_true, true_and]
    cases h : runWord a w s <;> simp
  · simp [runSteps, hw]

/-- Settles O6, by induction on the trace: the word a step carries is the one its agent fetches, and only an enabled agent
fetches one. -/
theorem validTraceIsARun : Obligations.ValidTraceIsARun := by
  refine ⟨fun ws => ?_, fun a w ws s he => ?_⟩
  · induction ws with
    | nil => exact fun s t h => h
    | cons aw ws ih =>
      intro s t h
      obtain ⟨hw, u, hu, hrest⟩ := runSteps_cons.mp h
      refine agentSteps_cons.mpr ⟨u, ?_, ih u t hrest⟩
      simp only [agentStep, hw, hu]
  · refine Option.eq_none_iff_forall_ne_some.mpr fun t h => ?_
    obtain ⟨hw, _⟩ := runSteps_cons.mp h
    exact absurd (State.fetch_cases hw).1 (by simp [he])

/-! ### DLYL (R72) -/

/-- The delays of DLYL n: whole ones, then the remainder where there is one. -/
def dlylDelays (n : Nat) : List Word16 :=
  List.replicate (n / 65535) 0xFFFF#16 ++ if n % 65535 = 0 then [] else [BitVec.ofNat 16 (n % 65535)]

theorem expandDlyl_eq_map (n : Nat) : expandDlyl n = (dlylDelays n).map Instr.dly := by
  unfold expandDlyl dlylDelays
  split <;> simp

/-- The remainder fits one delay. -/
theorem toNat_remainder (n : Nat) : (BitVec.ofNat 16 (n % 65535)).toNat = n % 65535 := by
  rw [BitVec.toNat_ofNat]
  omega

theorem sum_dlylDelays (n : Nat) : ((dlylDelays n).map BitVec.toNat).sum = n := by
  have hdiv := Nat.div_add_mod' n 65535
  unfold dlylDelays
  split
  case isTrue hrem => simpa [hrem] using hdiv
  case isFalse => simpa [-BitVec.toNat_ofNat, toNat_remainder] using hdiv

theorem ne_zero_of_mem_dlylDelays {n : Nat} {d : Word16} (h : d ∈ dlylDelays n) : d ≠ 0#16 := by
  obtain hwhole | hrest := List.mem_append.mp h
  · rw [List.eq_of_mem_replicate hwhole]
    decide
  · split at hrest
    case isTrue => cases hrest
    case isFalse hrem =>
      rw [List.mem_singleton.mp hrest]
      intro h0
      exact hrem (by rw [← toNat_remainder n, h0]; rfl)

theorem length_dlylDelays (n : Nat) : (dlylDelays n).length = n / 65535 + (if n % 65535 = 0 then 0 else 1) := by
  unfold dlylDelays
  split <;> simp

/-- Settles O58: the delays are `dlylDelays n`; the example is 121 whole delays and a remainder of 54265. -/
theorem dlylDelaysSumToItsOperand : Obligations.DlylDelaysSumToItsOperand := by
  refine ⟨fun n => ⟨dlylDelays n, expandDlyl_eq_map n, sum_dlylDelays n, fun d => ne_zero_of_mem_dlylDelays,
    length_dlylDelays n⟩, ?_⟩
  rw [expandDlyl, List.map_append, List.map_replicate]
  rfl

/-! ### Host words in a row (R90) -/

/-- A host write that leaves EN = 0 where it was 0: every host write but WR_EN 1, and NOP. DLY and the reads are no such
writes. -/
def keepsRest : Instr → Bool
  | .nop | .wrIdx _ | .wrTmr _ | .wrTie _ | .wrGie _ | .wrOe _ | .wrDuty _ _ | .wrDutyl _ => true
  | .wrEn b => !b
  | _ => false

theorem issuer_of_keepsRest {i : Instr} (hi : keepsRest i = true) : i.issuer = .host := by
  cases i with
  | tick | vector => cases hi
  | _ => rfl

/-- Such a write completes, starts no delay and does not start the timer. -/
theorem exec_keepsRest {i : Instr} {s t : State} (hi : keepsRest i = true) (h : exec i s = .next t) :
    t.hpc = s.hpc + 1 ∧ t.hprog = s.hprog ∧ t.params = s.params ∧ t.fault = s.fault ∧ t.hwait = s.hwait ∧
      t.ifFlag = s.ifFlag ∧ (s.en = false → t.en = false) := by
  cases i with
  | nop | wrIdx _ | wrTmr _ | wrTie _ | wrGie _ | wrOe _ | wrDuty _ _ | wrDutyl _ => cases h; simp
  | wrEn b =>
    obtain rfl : b = false := by simpa [keepsRest] using hi
    cases h
    simp
  | rdIdx | rdTmr | rdDuty | rdStatus | dly _ | tick | vector => cases hi

/-- The host is enabled at a word of its program, with no fault, no delay, and no request held against it by
STRICT_PRIORITY (R90). -/
theorem State.host_enabled {s : State} {w : OpWord} (hw : s.hprog[s.hpc]? = some w) (hfault : s.fault = 0#3)
    (hwait : s.hwait = 0#16) (hp : s.params.strictPriority = false ∨ s.interruptPending = false) :
    s.enabled .host = true := by
  obtain ⟨hlt, _⟩ := List.getElem?_eq_some_iff.mp hw
  obtain hp | hp := hp <;> simp [State.enabled, State.hostEnabled, State.unfaulted, hfault, hwait, hlt, hp]

theorem holdsFromHpc_head {i : Instr} {is : List Instr} {s : State} (h : HoldsFromHpc (i :: is) s) :
    s.hprog[s.hpc]? = some (encode i) := h 0 i rfl

theorem holdsFromHpc_tail {i : Instr} {is : List Instr} {s t : State} (h : HoldsFromHpc (i :: is) s)
    (hprog : t.hprog = s.hprog) (hpc : t.hpc = s.hpc + 1) : HoldsFromHpc is t := by
  intro k j hk
  rw [hprog, hpc, Nat.add_assoc, Nat.add_comm 1 k]
  exact h (k + 1) j hk

/-- The enabled host performs the instruction whose word stands at HPC. -/
theorem agentStep_host_encode {i : Instr} {s : State} (hi : i.issuer = .host) (hw : s.hprog[s.hpc]? = some (encode i))
    (he : s.enabled .host = true) : agentStep .host s = exec i s :=
  agentStep_host he hw (hi ▸ decode_encode i)

theorem execAll_cons {i : Instr} {is : List Instr} {s u : State} (h : exec i s = .next u) :
    execAll (i :: is) s = execAll is u := by
  simp only [execAll, h]

/-- Host steps in a row are the effects of the words at HPC, where STRICT_PRIORITY holds none of them back. -/
theorem agentSteps_hosts {is : List Instr} {s : State} (hquiet : ∀ i ∈ is, keepsRest i = true) (hold : HoldsFromHpc is s)
    (hfault : s.fault = 0#3) (hwait : s.hwait = 0#16)
    (hp : s.params.strictPriority = false ∨
      ∀ k u, k < is.length → execAll (is.take k) s = some u → u.interruptPending = false) :
    agentSteps (List.replicate is.length .host) s = execAll is s := by
  induction is generalizing s with
  | nil => rfl
  | cons i is ih =>
    obtain ⟨hi, hquiet⟩ := List.forall_mem_cons.mp hquiet
    obtain ⟨u, hu⟩ := exec_answers i s
    obtain ⟨hpc, hprog, hparams, hfault', hwait', _, _⟩ := exec_keepsRest hi hu
    have he : s.enabled .host = true :=
      State.host_enabled (holdsFromHpc_head hold) hfault hwait (hp.imp_right fun h => h 0 s (Nat.succ_pos _) rfl)
    have hstep : agentStep .host s = .next u :=
      (agentStep_host_encode (issuer_of_keepsRest hi) (holdsFromHpc_head hold) he).trans hu
    rw [execAll_cons hu, List.length_cons, List.replicate_succ]
    simp only [agentSteps, hstep]
    refine ih hquiet (holdsFromHpc_tail hold hprog hpc) (hfault'.trans hfault) (hwait'.trans hwait) ?_
    exact hp.imp (hparams ▸ ·) fun h k v hk hv =>
      h (k + 1) v (Nat.succ_lt_succ hk) ((execAll_cons hu).trans hv)

/-! ### Runs of a resting machine (R113) -/

/-- No fault, no host delay, the timer stopped and no request pending. -/
def AtRest (s : State) : Prop :=
  s.fault = 0#3 ∧ s.hwait = 0#16 ∧ s.en = false ∧ s.ifFlag = false

theorem AtRest.interruptPending {s : State} (hs : AtRest s) : s.interruptPending = false := by
  obtain ⟨_, _, _, hf⟩ := hs
  simp [State.interruptPending, hf]

/-- Where the host is enabled with EN = 0 and IF = 0, the machine is at rest. -/
theorem AtRest.of_host_enabled {s : State} (he : s.enabled .host = true) (hen : s.en = false) (hf : s.ifFlag = false) :
    AtRest s := by
  have hfault := State.unfaulted_of_enabled he
  simp only [State.enabled, State.hostEnabled, Bool.and_eq_true, decide_eq_true_eq] at he
  obtain ⟨⟨_, hwait⟩, _⟩ := he
  exact ⟨hfault, hwait, hen, hf⟩

theorem AtRest.exec {i : Instr} {s t : State} (hs : AtRest s) (hi : keepsRest i = true) (h : exec i s = .next t) :
    AtRest t := by
  obtain ⟨hfault, hwait, hen, hf⟩ := hs
  obtain ⟨_, _, _, hfault', hwait', hf', hen'⟩ := exec_keepsRest hi h
  exact ⟨hfault'.trans hfault, hwait'.trans hwait, hen' hen, hf'.trans hf⟩

/-- TIMER and SEQUENCER leave a resting machine exactly as it is. -/
theorem AtRest.eq_of_agentStep {a : Agent} {s t : State} (hs : AtRest s) (ha : a ≠ .host) (h : agentStep a s = .next t) :
    t = s := by
  obtain ⟨_, hwait, hen, hf⟩ := hs
  obtain ⟨ht, hzero⟩ := agentStep_idle hen hf ha h
  rw [ht, hzero hwait, ← hwait]

/-- TICKs are enabled at rest, VECTORs where spurious entries are admitted, the host at a word of its program. -/
theorem AtRest.enabled {a : Agent} {s : State} (hs : AtRest s) (hsp : a = .sequencer → s.params.spuriousVectors = true)
    (hw : a = .host → ∃ w, s.hprog[s.hpc]? = some w) : s.enabled a = true := by
  have hp := hs.interruptPending
  obtain ⟨hfault, hwait, _, _⟩ := hs
  cases a with
  | timer =>
    simp only [State.enabled, State.tickEnabled, State.unfaulted, State.latencyReached, hfault, hp]
    split <;> rfl
  | sequencer => simp [State.enabled, State.vectorEnabled, State.unfaulted, hfault, hsp rfl]
  | host =>
    obtain ⟨w, hw⟩ := hw rfl
    exact State.host_enabled hw hfault hwait (.inr hp)

/-- A run from rest through the words at HPC is the effects of those of them its host steps perform: the steps of TIMER and
SEQUENCER between them change nothing. -/
theorem agentSteps_atRest {is : List Instr} {as : List Agent} {s t : State} (hquiet : ∀ i ∈ is, keepsRest i = true)
    (hs : AtRest s) (hold : HoldsFromHpc is s) (hn : as.count .host ≤ is.length) (h : agentSteps as s = some t) :
    execAll (is.take (as.count .host)) s = some t := by
  induction as generalizing is s with
  | nil => exact h
  | cons a as ih =>
    obtain ⟨u, hu, hrest⟩ := agentSteps_cons.mp h
    by_cases ha : a = .host
    · subst ha
      rw [List.count_cons_self] at hn ⊢
      obtain ⟨i, is, rfl⟩ := List.exists_cons_of_length_pos (Nat.zero_lt_of_lt hn)
      obtain ⟨hi, hquiet⟩ := List.forall_mem_cons.mp hquiet
      obtain ⟨he, _⟩ := agentStep_host_cases hu
      rw [agentStep_host_encode (issuer_of_keepsRest hi) (holdsFromHpc_head hold) he] at hu
      obtain ⟨hpc, hprog, _⟩ := exec_keepsRest hi hu
      rw [List.take_succ_cons, execAll_cons hu]
      exact ih hquiet (hs.exec hi hu) (holdsFromHpc_tail hold hprog hpc) (Nat.le_of_succ_le_succ hn) hrest
    · cases hs.eq_of_agentStep ha hu
      rw [List.count_cons_of_ne ha] at hn ⊢
      exact ih hquiet hs hold hn hrest

/-- Such a run completes, with any TICKs, and any VECTORs where spurious entries are admitted, between the words. -/
theorem agentSteps_atRest_answers {is : List Instr} {as : List Agent} {s : State} (hquiet : ∀ i ∈ is, keepsRest i = true)
    (hs : AtRest s) (hold : HoldsFromHpc is s) (hn : as.count .host ≤ is.length)
    (hsp : .sequencer ∈ as → s.params.spuriousVectors = true) : ∃ t, agentSteps as s = some t := by
  induction as generalizing is s with
  | nil => exact ⟨s, rfl⟩
  | cons a as ih =>
    have hsp' (h : Agent.sequencer ∈ as) := hsp (List.mem_cons_of_mem a h)
    by_cases ha : a = .host
    · subst ha
      rw [List.count_cons_self] at hn
      obtain ⟨i, is, rfl⟩ := List.exists_cons_of_length_pos (Nat.zero_lt_of_lt hn)
      obtain ⟨hi, hquiet⟩ := List.forall_mem_cons.mp hquiet
      have hw := holdsFromHpc_head hold
      obtain ⟨u, hu⟩ := agentStep_answers (hs.enabled (a := .host) nofun fun _ => ⟨_, hw⟩)
      have hx := hu
      rw [agentStep_host_encode (issuer_of_keepsRest hi) hw (agentStep_host_cases hu).1] at hx
      obtain ⟨hpc, hprog, hparams, _⟩ := exec_keepsRest hi hx
      obtain ⟨t, ht⟩ := ih hquiet (hs.exec hi hx) (holdsFromHpc_tail hold hprog hpc) (Nat.le_of_succ_le_succ hn)
        (hparams ▸ hsp')
      exact ⟨t, agentSteps_cons.mpr ⟨u, hu, ht⟩⟩
    · obtain ⟨u, hu⟩ := agentStep_answers (hs.enabled (fun h => hsp (h ▸ List.mem_cons_self)) fun h => absurd h ha)
      cases hs.eq_of_agentStep ha hu
      rw [List.count_cons_of_ne ha] at hn
      obtain ⟨t, ht⟩ := ih hquiet hs hold hn hsp'
      exact ⟨t, agentSteps_cons.mpr ⟨_, hu, ht⟩⟩

/-! ### ARM (R72, R107, R113) -/

/-- The words of ARM but the last, which starts the timer. -/
def armSetup (p : Config.Params) : List Instr := [.wrIdx 0#8, .wrTmr p.reload]

theorem expand_arm (p : Config.Params) : expand p .arm = armSetup p ++ [.wrEn true] := rfl

theorem keepsRest_armSetup (p : Config.Params) : ∀ i ∈ armSetup p, keepsRest i = true := by
  simp [armSetup, keepsRest]

/-- Settles O55: the DATA fields are 0, RELOAD and 1, and each write is a record update. -/
theorem armSetsIndexTimerEnable : Obligations.ArmSetsIndexTimerEnable := by
  refine ⟨fun p => ?_, fun s => rfl⟩
  have hidx : encode (.wrIdx 0#8) = 0x100000#24 := by decide
  have hopc : (opcodeBits .wrTmr).setWidth 24 <<< 20 = 0x200000#24 := by decide
  have htmr : encode (.wrTmr p.reload) = 0x200000#24 ||| p.reload.setWidth 24 := by
    rw [encode, packWord_or, ← hopc]
    rfl
  have hen : encode (.wrEn true) = 0x300001#24 := by decide
  simp only [expand, expandArm, List.map_cons, List.map_nil, hidx, htmr, hen]

/-- With the timer stopped and no request pending, any steps of TIMER and SEQUENCER change the host delay alone. -/
theorem agentSteps_idle {as : List Agent} {s t : State} (hen : s.en = false) (hf : s.ifFlag = false)
    (has : ∀ a ∈ as, a ≠ .host) (h : agentSteps as s = some t) : t = { s with hwait := t.hwait } := by
  induction as generalizing s with
  | nil => cases h; rfl
  | cons a as ih =>
    obtain ⟨ha, has⟩ := List.forall_mem_cons.mp has
    obtain ⟨u, hu, hrest⟩ := agentSteps_cons.mp h
    obtain ⟨hidle, _⟩ := agentStep_idle hen hf ha hu
    generalize u.hwait = w at hidle
    subst hidle
    exact ih (s := { s with hwait := w }) hen hf has hrest

theorem holdsFromHpc_left {is js : List Instr} {s : State} (h : HoldsFromHpc (is ++ js) s) : HoldsFromHpc is s := by
  intro k i hk
  obtain ⟨hlt, _⟩ := List.getElem?_eq_some_iff.mp hk
  exact h k i ((List.getElem?_append_left hlt).trans hk)

theorem count_host_eq_zero {as : List Agent} (has : ∀ a ∈ as, a ≠ .host) : as.count .host = 0 :=
  List.count_eq_zero.mpr fun h => has _ h rfl

theorem agentSteps_singleton {a : Agent} {s t : State} : agentSteps [a] s = some t ↔ agentStep a s = .next t := by
  rw [agentSteps_cons]
  simp [agentSteps]

/-- The last of ARM's host steps comes after a run with two. -/
theorem agentSteps_arm {as bs : List Agent} {s t : State} :
    agentSteps (.host :: (as ++ .host :: (bs ++ [.host]))) s = some t ↔
      ∃ u, agentSteps (.host :: (as ++ .host :: bs)) s = some u ∧ agentStep .host u = .next t := by
  have hlist : Agent.host :: (as ++ .host :: (bs ++ [.host])) = .host :: (as ++ .host :: bs) ++ [.host] := by simp
  simp only [hlist, agentSteps_append, agentSteps_singleton]

section ArmRuns

variable {as bs : List Agent} {s : State}

theorem count_host_arm (has : ∀ a ∈ as ++ bs, a ≠ .host) : (Agent.host :: (as ++ .host :: bs)).count .host = 2 := by
  have hcount := count_host_eq_zero has
  rw [List.count_append] at hcount
  rw [List.count_cons_self, List.count_append, List.count_cons_self]
  omega

/-- From rest, the first two host steps of ARM write IDX and TMR, whatever TIMER and SEQUENCER do between and after them. -/
theorem agentSteps_armSetup {u : State} (hs : AtRest s) (hold : HoldsFromHpc (expand s.params .arm) s)
    (has : ∀ a ∈ as ++ bs, a ≠ .host) (h : agentSteps (.host :: (as ++ .host :: bs)) s = some u) :
    u = { s with idx := some 0#8, tmr := some s.params.reload, hpc := s.hpc + 2 } := by
  have hcount := count_host_arm has
  have hx := agentSteps_atRest (keepsRest_armSetup s.params) hs (holdsFromHpc_left hold) hcount.le h
  rw [hcount] at hx
  cases hx
  rfl

end ArmRuns

/-- Settles O56: the host steps but the last are writes that keep the machine at rest, where TIMER and SEQUENCER change
nothing; the last is performed in the state they leave. -/
theorem armIsAtomicInEffect : Obligations.ArmIsAtomicInEffect := by
  refine ⟨fun as s t hen hf has h => agentSteps_idle hen hf has h, fun as bs s t hen hf hold has h => ?_,
    fun as bs s hen hf hold he has => ?_⟩
  · obtain ⟨v, hv, _⟩ := agentSteps_cons.mp h
    have hs := AtRest.of_host_enabled (agentStep_host_cases hv).1 hen hf
    obtain ⟨u, hu, hlast⟩ := agentSteps_arm.mp h
    obtain rfl := agentSteps_armSetup hs hold has hu
    rw [agentStep_host_encode (i := .wrEn true) rfl (hold 2 _ rfl) (agentStep_host_cases hlast).1] at hlast
    cases hlast
    rfl
  · have hs := AtRest.of_host_enabled he hen hf
    have hne : ∀ a ∈ as ++ bs, a ≠ .host := by
      intro a ha
      obtain rfl | ⟨rfl, _⟩ := has a ha <;> nofun
    have hsp : .sequencer ∈ Agent.host :: (as ++ .host :: bs) → s.params.spuriousVectors = true := by
      intro hmem
      obtain h | ⟨_, h⟩ := has .sequencer (by simpa using hmem)
      · cases h
      · exact h
    obtain ⟨u, hu⟩ := agentSteps_atRest_answers (keepsRest_armSetup s.params) hs (holdsFromHpc_left hold)
      (count_host_arm hne).le hsp
    have hueq := agentSteps_armSetup hs hold hne hu
    have hrest : AtRest u := by rw [hueq]; exact hs
    have hword : u.hprog[u.hpc]? = some (encode (.wrEn true)) := by rw [hueq]; exact hold 2 _ rfl
    obtain ⟨t, ht⟩ := agentStep_answers (hrest.enabled (a := .host) nofun fun _ => ⟨_, hword⟩)
    exact ⟨t, agentSteps_arm.mpr ⟨u, hu, ht⟩⟩

end Sys2Proof.Machine
end

section
/-!
PROOFS. INIT (spec/30_encoding.md R72; spec/70_reset_and_hazards.md R143, R147): the runs of a host program that starts with
its words.
-/

namespace Sys2Proof.Machine

open Sys2Proof.Safety

/-! ### HPC counts the host's completed steps (R90) -/

theorem exec_hpc_of_event {i : Instr} {s t : State} (hi : i.issuer ≠ .host) (h : exec i s = .next t) : t.hpc = s.hpc := by
  obtain ⟨_, _, _, _, _, _, _, _, _, _, _, hhpc, _⟩ := eachRegisterHasItsWriters i s t h
  by_contra hne
  exact hi (hhpc hne)

/-- A step that raises no fault advances HPC where it is the host's, and leaves it otherwise. -/
theorem agentStep_hpc {a : Agent} {s t : State} (h : agentStep a s = .next t) (h0 : t.fault = 0#3) :
    t.hpc = s.hpc + if a = .host then 1 else 0 := by
  cases a with
  | timer => exact exec_hpc_of_event (i := .tick) nofun (agentStep_timer_cases h).2
  | sequencer => exact exec_hpc_of_event (i := .vector) nofun (agentStep_sequencer_cases h).2
  | host =>
    obtain ⟨he, w, _, hw⟩ := agentStep_host_cases h
    have hraise (c : FaultCode) (n : Nat) : t ≠ s.raise .host c n := by
      rintro rfl
      rw [State.raise_fault, State.unfaulted_of_enabled he, BitVec.zero_or] at h0
      exact faultBit_ne_zero c h0
    obtain ⟨i, _, hi, hx⟩ | ⟨e, _, ht⟩ := hw
    · obtain ⟨hpc, _⟩ | ⟨r, ht⟩ := exec_host_cases hi hx
      · exact hpc
      · exact absurd ht (hraise _ _)
    · exact absurd ht (hraise _ _)

/-- A run that ends unfaulted was unfaulted where it began: a faulted state has no step (R118). -/
theorem unfaulted_of_agentSteps {as : List Agent} {s t : State} (h : agentSteps as s = some t) (h0 : t.fault = 0#3) :
    s.fault = 0#3 := by
  cases as with
  | nil => cases h; exact h0
  | cons a as =>
    obtain ⟨u, hu, _⟩ := agentSteps_cons.mp h
    obtain ⟨w, hw, _⟩ := agentStep_cases hu
    exact State.unfaulted_of_enabled (State.fetch_cases hw).1

/-- In a run that ends unfaulted HPC has advanced once with every host step. -/
theorem agentSteps_hpc {as : List Agent} {s t : State} (h : agentSteps as s = some t) (h0 : t.fault = 0#3) :
    t.hpc = s.hpc + as.count .host := by
  induction as generalizing s with
  | nil => cases h; rfl
  | cons a as ih =>
    obtain ⟨u, hu, hrest⟩ := agentSteps_cons.mp h
    rw [ih hrest, agentStep_hpc hu (unfaulted_of_agentSteps hrest h0), List.count_cons]
    simp only [beq_iff_eq]
    omega

/-! ### INIT's words -/

theorem keepsRest_init (p : Config.Params) : ∀ i ∈ expand p .init, keepsRest i = true := by
  simp [expand, expandInit, wrBaseline, keepsRest]

/-- The state INIT's words leave when they are performed from the launch state (R143). -/
def initialised (p : Config.Params) (prog : List OpWord) : State :=
  { State.launch p prog with
    oe := true, gie := true, tie := true,
    dutyHi := some (p.baseline.extractLsb' 8 2), dutyLo := some (p.baseline.extractLsb' 0 8),
    hist := [.dutyWrite .host (p.baseline.extractLsb' 0 8) (some (p.baseline.extractLsb' 8 2))], hpc := 7 }

theorem execAll_init (p : Config.Params) (prog : List OpWord) :
    execAll (expand p .init) (State.launch p prog) = some (initialised p prog) := rfl

/-- The two parts of WR_DUTY BASELINE make BASELINE (R62, R34). -/
theorem duty_initialised (p : Config.Params) (prog : List OpWord) : (initialised p prog).duty = some p.baseline := by
  have hparts : p.baseline.extractLsb' 8 2 ++ p.baseline.extractLsb' 0 8 = p.baseline.extractLsb' 0 10 :=
    BitVec.extractLsb'_append_extractLsb'_eq_extractLsb' (by decide)
  rw [State.duty_eq_some rfl rfl, hparts, BitVec.extractLsb'_eq_self]

/-- RD_DUTY logs a duty that holds a value (R103). -/
theorem exec_rdDuty {s : State} {d : BitVec 10} (h : s.duty = some d) :
    exec .rdDuty s = .next { s with hist := s.hist ++ [.hostRead .rdDuty (d.setWidth 16)], hpc := s.hpc + 1 } := by
  simp only [exec, execRdDuty, h]
  rfl

/-- With RESET_IF = false the launch state is at rest. -/
theorem AtRest.launch {p : Config.Params} (hif : p.resetIf = false) (prog : List OpWord) : AtRest (State.launch p prog) :=
  ⟨rfl, rfl, rfl, hif⟩

/-- Writes that keep the machine at rest keep it so one after another. -/
theorem AtRest.execAll {is : List Instr} {s t : State} (hs : AtRest s) (hquiet : ∀ i ∈ is, keepsRest i = true)
    (h : Safety.execAll is s = some t) : AtRest t := by
  induction is generalizing s with
  | nil => cases h; exact hs
  | cons i is ih =>
    obtain ⟨hi, hquiet⟩ := List.forall_mem_cons.mp hquiet
    obtain ⟨u, hu⟩ := exec_answers i s
    exact ih (hs.exec hi hu) hquiet ((execAll_cons hu).symm.trans h)

/-- A run from launch, with RESET_IF = false, that ends unfaulted at HPC = 7 ends in INIT's state. -/
theorem agentSteps_init {p : Config.Params} {prog : List OpWord} {as : List Agent} {t : State} (hif : p.resetIf = false)
    (hold : HoldsFromHpc (expand p .init) (State.launch p prog)) (h : agentSteps as (State.launch p prog) = some t)
    (hpc : t.hpc = 7) (h0 : t.fault = 0#3) : t = initialised p prog := by
  have hcount : as.count .host = 7 := by
    have := agentSteps_hpc h h0
    rw [hpc] at this
    simpa [State.launch] using this.symm
  have hx := agentSteps_atRest (keepsRest_init p) (AtRest.launch hif prog) hold hcount.le h
  rw [hcount] at hx
  exact Option.some.inj (hx.symm.trans (execAll_init p prog))

/-- The first three words of INIT leave TIE = 0, so no request is enabled before the fourth is performed. -/
theorem interruptPending_init {p : Config.Params} {prog : List OpWord} {k : Nat} {u : State} (hk : k < 4)
    (h : execAll ((expand p .init).take k) (State.launch p prog) = some u) : u.interruptPending = false := by
  have htie : u.tie = false := by
    match k, hk with
    | 0, _ | 1, _ | 2, _ | 3, _ => cases h; rfl
  simp [State.interruptPending, htie]

/-- The state the first four words of INIT leave. -/
def initialisedFour (p : Config.Params) (prog : List OpWord) : State :=
  { State.launch p prog with oe := true, gie := true, tie := true, hpc := 4 }

/-- The first four words of INIT are performed in a row whatever RESET_IF and STRICT_PRIORITY are. -/
theorem agentSteps_init_four {p : Config.Params} {prog : List OpWord}
    (hold : HoldsFromHpc (expand p .init) (State.launch p prog)) :
    agentSteps (List.replicate 4 .host) (State.launch p prog) = some (initialisedFour p prog) := by
  have hold4 : HoldsFromHpc ((expand p .init).take 4) (State.launch p prog) :=
    holdsFromHpc_left (js := (expand p .init).drop 4) hold
  have hquiet : ∀ i ∈ (expand p .init).take 4, keepsRest i = true :=
    fun i hi => keepsRest_init p i (List.mem_of_mem_take hi)
  refine (agentSteps_hosts hquiet hold4 rfl rfl (.inr fun k u hk hu => ?_)).trans rfl
  have hk : k < 4 := hk
  rw [List.take_take, Nat.min_eq_left hk.le] at hu
  exact interruptPending_init hk hu

/-- A service of an index that holds no value raises F_UNINIT(0) (R82). -/
theorem execVector_uninit {s : State} (hf : s.ifFlag = true) (hidx : s.idx = none) :
    execVector s = .next (s.raise .sequencer .uninit 0) := by
  simp only [execVector, hf, hidx, if_true]
  rfl

/-- Settles O57: a run that ends unfaulted at HPC = 7 has performed INIT's seven words from rest, with steps between them
that change nothing; seven host steps in a row perform them too; with RESET_IF = true the fourth enables the request,
whose service finds IDX = ⊥. -/
theorem initLeavesTheBaselineDuty : Obligations.InitLeavesTheBaselineDuty := by
  refine ⟨fun p prog as t hif hold h hpc h0 => ?_, fun p prog hopen hold => ?_, fun p prog hif hold => ?_⟩
  · obtain rfl := agentSteps_init hif hold h hpc h0
    refine ⟨duty_initialised p prog, rfl, rfl, rfl, rfl, hif, rfl, fun hw => ?_⟩
    have hrest : AtRest (initialised p prog) := ⟨rfl, rfl, rfl, hif⟩
    rw [agentStep_host (hrest.enabled (a := .host) nofun fun _ => ⟨_, hw⟩) hw (i := .rdDuty) (by decide)]
    exact exec_rdDuty (duty_initialised p prog)
  · refine ⟨initialised p prog, ?_, rfl, duty_initialised p prog, rfl, rfl, rfl, rfl⟩
    refine (agentSteps_hosts (keepsRest_init p) hold rfl rfl ?_).trans (execAll_init p prog)
    refine hopen.symm.imp_right fun hif k u _ hu => ?_
    exact ((AtRest.launch hif prog).execAll (fun i hi => keepsRest_init p i (List.mem_of_mem_take hi)) hu).interruptPending
  · have he : (initialisedFour p prog).enabled .sequencer = true := by
      simp [initialisedFour, State.enabled, State.vectorEnabled, State.unfaulted, State.interruptPending, State.launch, hif]
    refine ⟨_, _, agentSteps_init_four hold, (agentStep_sequencer he).trans (execVector_uninit hif rfl), ?_⟩
    have hbit : 0#3 ||| faultBit .uninit = 0b010#3 := by decide
    rw [← hbit]
    rfl

end Sys2Proof.Machine
end

section
/-!
PROOFS. The sample-clock family (spec/40_sample_clock.md), one step at a time: when TICK and VECTOR are enabled, what each of them
does, the self-disarm, and what a service leaves alone.
-/

namespace Sys2Proof.Machine

/-! ### Enabling (R77, R79, R118) -/

theorem State.interruptPending_iff (s : State) :
    s.interruptPending = true ↔ s.ifFlag = true ∧ s.tie = true ∧ s.gie = true := by
  simp [State.interruptPending, and_assoc]

/-- TICK is held back where a bound is set, a request is pending and enabled, and LAT has reached the bound. -/
theorem State.latencyReached_iff (s : State) :
    s.latencyReached = true ↔
      ∃ l, s.params.maxLatency = some l ∧ s.ifFlag = true ∧ s.tie = true ∧ s.gie = true ∧ l ≤ s.lat := by
  unfold State.latencyReached
  cases s.params.maxLatency with
  | none => simp
  | some l => simp [State.interruptPending_iff, and_assoc]

/-- Settles O8: TICK is enabled in an unfaulted state that the latency bound does not hold back. -/
theorem tickEnabledExactlyWhen : Obligations.TickEnabledExactlyWhen := by
  intro s
  rw [← State.latencyReached_iff]
  simp [State.enabled, State.tickEnabled, State.unfaulted]

/-- Settles O9: both sides say FAULT = 0 and a pending, enabled interrupt or spurious entries. -/
theorem vectorEnabledExactlyWhen : Obligations.VectorEnabledExactlyWhen := by
  intro s
  rw [← State.interruptPending_iff]
  simp [State.enabled, State.vectorEnabled, State.unfaulted]

/-- Where no request is pending, no latency bound holds TICK back. -/
theorem State.timer_enabled_of_idle {s : State} (h0 : s.fault = 0#3) (hf : s.ifFlag = false) : s.enabled .timer = true := by
  refine (tickEnabledExactlyWhen s).mpr ⟨h0, ?_⟩
  rintro ⟨_, _, hif, _⟩
  rw [hf] at hif
  cases hif

/-- Some agent is enabled in every unfaulted state: what holds TICK back is a request that enables VECTOR. -/
theorem State.exists_enabled {s : State} (h0 : s.fault = 0#3) : ∃ a, s.enabled a = true := by
  by_cases hheld : s.latencyReached = true
  · obtain ⟨_, _, hif, htie, hgie, _⟩ := s.latencyReached_iff.mp hheld
    exact ⟨.sequencer, (vectorEnabledExactlyWhen s).mpr ⟨h0, .inl ⟨hif, htie, hgie⟩⟩⟩
  · exact ⟨.timer, (tickEnabledExactlyWhen s).mpr ⟨h0, s.latencyReached_iff.not.mp hheld⟩⟩

/-- Without a schedule, an enabled agent is next wherever there is one. -/
theorem State.exists_nextAgent {s : State} {a : Agent} (he : s.enabled a = true) (hs : s.sched = []) :
    ∃ b, s.nextAgent = some b ∧ s.enabled b = true := by
  obtain ⟨c, cs, hc⟩ := List.exists_cons_of_ne_nil (List.ne_nil_of_mem ((s.mem_enabledAgents a).mpr he))
  obtain ⟨b, hb⟩ := pickAgent_some c cs s.turn
  refine ⟨b, by simp only [State.nextAgent, hc, hs, hb], ?_⟩
  rw [← State.mem_enabledAgents, hc]
  exact pickAgent_mem hb

/-- Nobody is next in a faulted state, whatever the schedule names (R118). -/
theorem State.nextAgent_of_faulted {s : State} (h : s.fault ≠ 0#3) : s.nextAgent = none := by
  have hnobody : s.enabledAgents = [] :=
    List.eq_nil_iff_forall_not_mem.mpr fun a ha => h (State.unfaulted_of_enabled ((s.mem_enabledAgents a).mp ha))
  simp only [State.nextAgent, hnobody]

/-- Settles O5: an unfaulted state has an enabled agent, so the free choice finds one, and its step answers; a faulted state
has none. -/
theorem runGoesOnExactlyWhileUnfaulted : Obligations.RunGoesOnExactlyWhileUnfaulted := by
  refine ⟨fun s h0 hs => ?_, fun s h => ?_⟩
  · obtain ⟨a, ha⟩ := State.exists_enabled h0
    obtain ⟨b, hnext, hb⟩ := State.exists_nextAgent ha hs
    rw [step_of_nextAgent hnext]
    exact agentStep_answers ((s.takeTurn_enabled b).trans hb)
  · simp only [step, State.nextAgent_of_faulted h]

/-! ### TICK (R76) -/

/-- A running timer that holds no value raises F_UNINIT(1). -/
theorem exec_tick_uninit {s : State} (hen : s.en = true) (htmr : s.tmr = none) :
    exec .tick s = .next (s.raise .timer .uninit 1) := by
  simp only [exec, execTick, hen, htmr]
  rfl

/-- A TICK of the stopped timer. -/
theorem exec_tick_stopped {s : State} (hen : s.en = false) : exec .tick s = .next s.countDelay.countLatency := by
  simp only [exec, execTick, hen]

/-- Settles O16: the three cases of TICK, each in one record. -/
theorem tickEffect : Obligations.TickEffect := by
  refine ⟨by decide, fun s hen htmr => ?_, fun s t hen htmr => ?_, fun s hen => ?_⟩
  · exact exec_tick_uninit hen htmr
  · rw [exec_tick_running hen htmr, State.runningEdge_eq]
    rfl
  · rw [exec_tick_stopped hen, State.stoppedEdge_eq]
    rfl

/-! ### VECTOR (R80–R82, R84) -/

/-- The last sample is that of entry 157. -/
theorem isLastSample_iff (i : Byte) : isLastSample i = true ↔ i = 157#8 := by
  rw [isLastSample, decide_eq_true_eq, len_eq, ← BitVec.toNat_inj]
  exact Nat.succ_inj

/-- A VECTOR without a pending request does nothing. -/
theorem execVector_idle {s : State} (hf : s.ifFlag = false) : execVector s = .next s := by
  simp [execVector, hf]

/-- A service of an index past the table raises F_OOB. -/
theorem execVector_oob {s : State} {i : Byte} (hf : s.ifFlag = true) (hidx : s.idx = some i) (hi : Config.len ≤ i.toNat) :
    execVector s = .next (s.raise .sequencer .oob i.toNat) := by
  simp only [execVector, hf, hidx, if_true, dif_neg (Nat.not_lt.mpr hi)]

/-- A pending request is served with the entry at IDX. -/
theorem execVector_service {s : State} {i : Byte} (hf : s.ifFlag = true) (hidx : s.idx = some i)
    (hi : i.toNat < Config.len) : execVector s = .next (s.service i (Memory.sample s.rom ⟨i.toNat, hi⟩)) := by
  simp only [execVector, hf, hidx, if_true, dif_pos hi]

/-- The self-disarm, as a condition on the index served (R84). -/
theorem and_not_isLastSample (b : Bool) (i : Byte) :
    (b && !isLastSample i) = if i.toNat + 1 = 158 then false else b := by
  rw [isLastSample, len_eq]
  by_cases h : i.toNat + 1 = 158 <;> simp [h]

/-- Settles O18: the four cases of VECTOR, each in one record. -/
theorem vectorEffect : Obligations.VectorEffect := by
  refine ⟨by decide, fun s hf => execVector_idle hf, fun s hf hidx => execVector_uninit hf hidx,
    fun s i hf hidx hi => execVector_oob hf hidx hi, fun s i hi hf hidx => ?_⟩
  refine (execVector_service hf hidx hi).trans ?_
  rw [State.service_eq, and_not_isLastSample]

/-- Settles O19: only a service writes EN or IDX, it clears EN where the entry served is 157, and it leaves the index after
that entry. -/
theorem selfDisarmExactlyAtTableEnd : Obligations.SelfDisarmExactlyAtTableEnd := by
  intro s t hen h
  obtain ⟨hf, rfl⟩ | ⟨_, hidx, rfl⟩ | ⟨i, _, hidx, hi, rfl⟩ | ⟨i, _, hf, hidx, rfl⟩ := execVector_cases h
  · simp [hen, hf]
  · simp [hen, hidx]
  · have hne : i ≠ 157#8 := by
      rintro rfl
      exact absurd hi (by decide)
    simp [hen, hidx, hne]
  · simp +contextual [State.service_eq, hen, hf, hidx, isLastSample_iff]

/-- The fields no VECTOR writes (R86). -/
theorem execVector_frame {s t : State} (h : execVector s = .next t) :
    t.dutyHi = s.dutyHi ∧ t.tie = s.tie ∧ t.gie = s.gie ∧ t.oe = s.oe ∧ t.hpc = s.hpc ∧ t.hwait = s.hwait ∧
      t.rom = s.rom := by
  obtain ⟨_, rfl⟩ | ⟨_, _, rfl⟩ | ⟨_, _, _, _, rfl⟩ | ⟨_, _, _, _, rfl⟩ := execVector_cases h
  · simp
  · simp
  · simp
  · simp [State.service_eq]

/-- A duty is its low part exactly where its high part is 0. -/
theorem toNat_dutyParts_eq_low_iff (hi : BitVec 2) (lo : Byte) : (hi ++ lo).toNat = lo.toNat ↔ hi = 0#2 := by
  rw [toNat_dutyParts, ← BitVec.toNat_inj, BitVec.toNat_ofNat]
  omega

/-- Settles O20: the frame in VECTOR's four cases; after a service the low part of the duty is the sample beside the old
DUTY_HI. -/
theorem serviceLeavesAlone : Obligations.ServiceLeavesAlone := by
  refine ⟨fun s t h => ?_, fun s i hi hi2 hf hidx hhi => ?_⟩
  · obtain ⟨hdutyHi, htie, hgie, hoe, hhpc, hhwait, hrom⟩ := execVector_frame h
    exact ⟨hdutyHi, htie, hgie, hoe, hhpc, hhwait, fun a => by rw [hrom]⟩
  · refine ⟨_, _, execVector_service hf hidx hi, State.duty_eq_some (by simpa [State.service_eq] using hhi) ?_,
      toNat_dutyParts _ _, toNat_dutyParts_eq_low_iff _ _⟩
    simp [State.service_eq]

/-- Settles O21: the service of entry 157 leaves EN = IF = 0, where TIMER and SEQUENCER change the host delay alone. -/
theorem nothingPlaysAfterTheLastSample : Obligations.NothingPlaysAfterTheLastSample := by
  intro s t hf hidx h
  obtain rfl : s.service 157#8 _ = t := Host.Outcome.next.inj ((execVector_service hf hidx (by decide)).symm.trans h)
  have hlast : (s.en && !isLastSample 157#8) = false := and_not_isLastSample s.en 157#8
  rw [State.service_eq, hlast]
  refine ⟨⟨rfl, rfl, rfl⟩, fun as u has hrun => ?_⟩
  rw [agentSteps_idle rfl rfl has hrun]
  exact ⟨rfl, rfl, rfl, rfl, rfl⟩

end Sys2Proof.Machine
end

section
/-!
PROOFS. The sample-clock family, over runs (spec/40_sample_clock.md R78, R83–R85; R126, R162): the pending service under a latency
bound, the playback invariant, and the playback served at once.
-/

namespace Sys2Proof.Safety

open Sys2Proof.Machine

/-! ### No overflow is lost under a latency bound (R78, R126) -/

/-- Where TICK is enabled while a request is pending, LAT is below a bound below 65536, and the timer is no later than LAT. -/
theorem NoOverflowLost.exists_of_pending {s : State} (hs : NoOverflowLost s) (he : s.enabled .timer = true)
    (hf : s.ifFlag = true) :
    ∃ l v, s.params.maxLatency = some l ∧ l < 65536 ∧ s.lat < l ∧ s.tmr = some v ∧ v.toNat ≤ s.lat := by
  obtain ⟨htie, hgie, ⟨l, hl, hbound, _⟩, htmr⟩ := hs
  obtain ⟨v, hv, hle⟩ := htmr hf
  obtain ⟨_, hopen⟩ := (tickEnabledExactlyWhen s).mp he
  exact ⟨l, v, hl, hbound, not_le.mp fun h => hopen ⟨l, hl, hf, htie, hgie, h⟩, hv, hle⟩

/-- With both enables set, the request counts as pending and enabled wherever there is one. -/
theorem NoOverflowLost.interruptPending_eq {s : State} (hs : NoOverflowLost s) : s.interruptPending = s.ifFlag := by
  obtain ⟨htie, hgie, _⟩ := hs
  simp [State.interruptPending, htie, hgie]

/-- An enabled TICK keeps the pending service young: TMR, where it runs, and LAT grow together. -/
theorem NoOverflowLost.of_execTick {s t : State} (hs : NoOverflowLost s) (he : s.enabled .timer = true)
    (h : execTick s = .next t) : NoOverflowLost t := by
  have hpending := hs.exists_of_pending he
  have hcount := hs.interruptPending_eq
  obtain ⟨htie, hgie, hl, htmr⟩ := hs
  obtain ⟨_, _, rfl⟩ | ⟨v, _, hv, rfl⟩ | ⟨_, rfl⟩ := execTick_cases h
  · exact ⟨htie, hgie, hl, htmr⟩
  · rw [State.runningEdge_eq, hcount]
    cases hf : s.ifFlag with
    | true =>
      obtain ⟨l, w, hl, hbound, hlt, hw, hle⟩ := hpending hf
      obtain rfl : v = w := Option.some.inj (hv.symm.trans hw)
      have hnext : (v + 1#16).toNat = v.toNat + 1 := BitVec.toNat_add_of_lt (by simp; omega)
      exact ⟨htie, hgie, ⟨l, hl, hbound, hlt⟩, fun _ => ⟨_, rfl, hnext ▸ Nat.succ_le_succ hle⟩⟩
    | false =>
      refine ⟨htie, hgie, hl, fun hover => ⟨_, rfl, ?_⟩⟩
      obtain rfl : v = 0xFFFF#16 := of_decide_eq_true hover
      exact Nat.zero_le _
  · rw [State.stoppedEdge_eq, hcount]
    cases hf : s.ifFlag with
    | true =>
      obtain ⟨l, v, hl, hbound, hlt, hv, hle⟩ := hpending hf
      exact ⟨htie, hgie, ⟨l, hl, hbound, hlt⟩, fun _ => ⟨v, hv, Nat.le_succ_of_le hle⟩⟩
    | false => exact ⟨htie, hgie, hl, nofun⟩

/-- A VECTOR keeps it too: a service leaves no request and LAT = 0. -/
theorem NoOverflowLost.of_execVector {s t : State} (hs : NoOverflowLost s) (h : execVector s = .next t) :
    NoOverflowLost t := by
  obtain ⟨_, rfl⟩ | ⟨_, _, rfl⟩ | ⟨_, _, _, _, rfl⟩ | ⟨_, _, _, _, rfl⟩ := execVector_cases h
  · exact hs
  · exact hs
  · exact hs
  · obtain ⟨htie, hgie, ⟨l, hl, hbound, _⟩, _⟩ := hs
    rw [State.service_eq]
    exact ⟨htie, hgie, ⟨l, hl, hbound, Nat.zero_le l⟩, nofun⟩

/-- Settles O49: TICK and VECTOR keep the invariant, and a timer at 0xFFFF with a request pending would put LAT at 65535,
which no bound below 65536 lets an enabled TICK find. -/
theorem boundedLatencyLosesNoOverflow : Obligations.BoundedLatencyLosesNoOverflow := by
  intro a s t hs ha h
  cases a with
  | timer =>
    obtain ⟨he, hx⟩ := agentStep_timer_cases h
    refine ⟨hs.of_execTick he hx, ?_⟩
    rintro ⟨_, _, hf, hfull⟩
    obtain ⟨l, v, _, hbound, hlt, hv, hle⟩ := hs.exists_of_pending he hf
    obtain rfl : v = 0xFFFF#16 := Option.some.inj (hv.symm.trans hfull)
    have hle : 65535 ≤ s.lat := hle
    omega
  | sequencer => exact ⟨hs.of_execVector (agentStep_sequencer_cases h).2, nofun⟩
  | host => exact absurd rfl ha

/-! ### The playback invariant (R83, R84, R162) -/

/-- Two states that agree in all a playback is told from: the registers R162 names, the table, RELOAD and the samples played. -/
structure SamePlayback (s t : State) : Prop where
  idx : t.idx = s.idx
  tmr : t.tmr = s.tmr
  en : t.en = s.en
  ifFlag : t.ifFlag = s.ifFlag
  tie : t.tie = s.tie
  gie : t.gie = s.gie
  rom : t.rom = s.rom
  params : t.params = s.params
  samples : samplesOf t.hist = samplesOf s.hist

theorem PlaybackAt.of_same {h0 : List Event} {k : Nat} {s t : State} (hs : PlaybackAt h0 k s) (h : SamePlayback s t) :
    PlaybackAt h0 k t := by
  unfold PlaybackAt
  rwa [h.idx, h.tmr, h.en, h.ifFlag, h.tie, h.gie, h.rom, h.params, h.samples]

/-- A fault leaves the playback as it was (R118). -/
theorem samePlayback_raise (s : State) (a : Agent) (c : FaultCode) (n : Nat) : SamePlayback s (s.raise a c n) :=
  ⟨rfl, rfl, rfl, rfl, rfl, rfl, rfl, rfl, by simp [samplesOf]⟩

/-- A host word that writes none of IDX, TMR, EN, TIE and GIE leaves the playback as it was. -/
theorem samePlayback_exec {i : Instr} {s t : State} (hi : i.issuer = .host) (hquiet : leavesPlayback i = true)
    (h : exec i s = .next t) : SamePlayback s t := by
  cases i with
  | wrIdx _ | wrTmr _ | wrEn _ | wrTie _ | wrGie _ => cases hquiet
  | tick | vector => cases hi
  | nop | wrOe _ | dly _ => cases h; exact ⟨rfl, rfl, rfl, rfl, rfl, rfl, rfl, rfl, rfl⟩
  | wrDuty _ _ | wrDutyl _ | rdStatus =>
    cases h
    exact ⟨rfl, rfl, rfl, rfl, rfl, rfl, rfl, rfl, by simp [samplesOf]⟩
  | rdIdx | rdTmr | rdDuty =>
    obtain ⟨_, rfl⟩ | ⟨w, _, rfl⟩ := hostRead_cases h
    · exact samePlayback_raise ..
    · exact ⟨rfl, rfl, rfl, rfl, rfl, rfl, rfl, rfl, by simp [samplesOf]⟩

/-- So does the whole host step, an illegal word's included. -/
theorem samePlayback_host {s t : State} (hquiet : HostLeavesPlayback s) (h : agentStep .host s = .next t) :
    SamePlayback s t := by
  obtain ⟨_, w, hw, ⟨i, hd, hi, hx⟩ | ⟨_, _, rfl⟩⟩ := agentStep_host_cases h
  · exact samePlayback_exec hi (hquiet w i hw hd) hx
  · exact samePlayback_raise ..

section Playback

variable {h0 : List Event} {k : Nat} {s t : State}

/-- A request is pending only while entries are left to play. -/
theorem PlaybackAt.lt_of_pending (hs : PlaybackAt h0 k s) (hf : s.ifFlag = true) : k < Config.len := by
  obtain ⟨hle, _, _, _, _, _, _, hend⟩ := hs
  refine hle.lt_of_ne fun hk => ?_
  obtain ⟨hnone, _⟩ := hend hk
  rw [hnone] at hf
  cases hf

/-- TICK plays nothing: the running timer keeps a value, and the stopped one keeps its own. -/
theorem PlaybackAt.of_execTick (hs : PlaybackAt h0 k s) (h : execTick s = .next t) : PlaybackAt h0 k t := by
  obtain ⟨_, _, rfl⟩ | ⟨v, hen, _, rfl⟩ | ⟨_, rfl⟩ := execTick_cases h
  · exact hs.of_same (samePlayback_raise ..)
  · obtain ⟨hle, hidx, _, htie, hgie, hplayed, hk, _⟩ := hs
    have hlt : k < Config.len := of_decide_eq_true (hk.symm.trans hen)
    rw [State.runningEdge_eq]
    exact ⟨hle, hidx, rfl, htie, hgie, hplayed, hk, fun h => absurd h hlt.ne⟩
  · rw [State.stoppedEdge_eq]
    exact hs.of_same ⟨rfl, rfl, rfl, rfl, rfl, rfl, rfl, rfl, rfl⟩

theorem toNat_ofNat_of_lt_len (hk : k < Config.len) : (BitVec.ofNat 8 k).toNat = k :=
  Nat.mod_eq_of_lt (hk.trans (by decide))

/-- The table's first `k + 1` entries are its first `k` and entry `k`. -/
theorem tableUpTo_succ (m : Memory) (hk : k < Config.len) :
    tableUpTo m (k + 1) = tableUpTo m k ++ [(BitVec.ofNat 8 k, Memory.sample m ⟨k, hk⟩)] := by
  rw [tableUpTo, dif_pos hk]

/-- A VECTOR on a pending request serves entry `k`. -/
theorem PlaybackAt.execVector_eq (hs : PlaybackAt h0 k s) (hf : s.ifFlag = true) (hk : k < Config.len) :
    execVector s = .next (s.service (BitVec.ofNat 8 k) (Memory.sample s.rom ⟨k, hk⟩)) := by
  obtain ⟨_, hidx, _⟩ := hs
  have hnat := toNat_ofNat_of_lt_len hk
  rw [execVector_service hf hidx (hnat.symm ▸ hk)]
  simp only [hnat]

/-- The service of entry `k` plays it, goes on to entry `k + 1`, and disarms where that is the table's end. -/
theorem PlaybackAt.of_service (hs : PlaybackAt h0 k s) (hk : k < Config.len) :
    PlaybackAt h0 (k + 1) (s.service (BitVec.ofNat 8 k) (Memory.sample s.rom ⟨k, hk⟩)) := by
  obtain ⟨_, _, _, htie, hgie, hplayed, hen, _⟩ := hs
  have hplayed' : samplesOf (s.hist ++ [.sample (BitVec.ofNat 8 k) (Memory.sample s.rom ⟨k, hk⟩),
      .dutyWrite .sequencer (Memory.sample s.rom ⟨k, hk⟩) none]) = samplesOf h0 ++ tableUpTo s.rom (k + 1) := by
    rw [samplesOf_append, hplayed, tableUpTo_succ s.rom hk, List.append_assoc]
    rfl
  have hen' : (s.en && !isLastSample (BitVec.ofNat 8 k)) = decide (k + 1 < Config.len) := by
    rw [hen, isLastSample, toNat_ofNat_of_lt_len hk, decide_eq_true hk, Bool.true_and, ← decide_not]
    exact decide_eq_decide.mpr ⟨Nat.lt_of_le_of_ne hk, Nat.ne_of_lt⟩
  rw [State.service_eq]
  exact ⟨hk, congrArg some (BitVec.ofNat_add k 1).symm, rfl, htie, hgie, hplayed', hen', fun _ => ⟨rfl, rfl⟩⟩

end Playback

/-- Settles O50: TICK and the host's other words keep the playback where it is, and a VECTOR does nothing or serves the next
entry. -/
theorem playbackFollowsTheTable : Obligations.PlaybackFollowsTheTable := by
  intro h0 k a s t hs hhost h
  cases a with
  | timer => exact .inl (hs.of_execTick (agentStep_timer_cases h).2)
  | host => exact .inl (hs.of_same (samePlayback_host (hhost rfl) h))
  | sequencer =>
    obtain ⟨_, hx⟩ := agentStep_sequencer_cases h
    cases hf : s.ifFlag with
    | false =>
      rw [execVector_idle hf] at hx
      cases hx
      exact .inl hs
    | true =>
      have hk := hs.lt_of_pending hf
      rw [hs.execVector_eq hf hk] at hx
      cases hx
      exact .inr ⟨hs.of_service hk, rfl, rfl⟩

/-! ### The playback served at once (R85, R135) -/

/-- A TICK of the running timer without a pending request is enabled; it changes the host delay, TMR, and IF at the wrap. -/
theorem agentStep_timer_running {s : State} {v : Word16} (h0 : s.fault = 0#3) (hen : s.en = true) (hf : s.ifFlag = false)
    (htmr : s.tmr = some v) :
    ∃ w, agentStep .timer s = .next { s with hwait := w, tmr := some (v + 1#16), ifFlag := timerOverflows v } := by
  have hp : s.interruptPending = false := by simp [State.interruptPending, hf]
  rw [agentStep_timer (State.timer_enabled_of_idle h0 hf), exec_tick_running hen htmr, State.runningEdge_eq, hp, hf]
  exact ⟨_, rfl⟩

/-- One sample interval of TICKs without a pending request: the last of them sets the request, and nothing else changes but
TMR and the host delay. -/
theorem agentSteps_interval {n : Nat} {s : State} {v : Word16} (h0 : s.fault = 0#3) (hen : s.en = true)
    (hf : s.ifFlag = false) (htmr : s.tmr = some v) (hn : v.toNat + (n + 1) = 65536) :
    ∃ w, agentSteps (List.replicate (n + 1) .timer) s = some { s with hwait := w, tmr := some 0#16, ifFlag := true } := by
  induction n generalizing s v with
  | zero =>
    obtain ⟨w, hstep⟩ := agentStep_timer_running h0 hen hf htmr
    obtain rfl : v = 0xFFFF#16 := BitVec.toNat_inj.mp (Nat.succ_inj.mp hn)
    exact ⟨w, agentSteps_singleton.mpr hstep⟩
  | succ n ih =>
    obtain ⟨w, hstep⟩ := agentStep_timer_running h0 hen hf htmr
    have hlt : v.toNat < 65535 := by omega
    have hnext : (v + 1#16).toNat = v.toNat + 1 := BitVec.toNat_add_of_lt (Nat.succ_lt_succ hlt)
    have hquiet : timerOverflows v = false := decide_eq_false fun hfull => hlt.ne (congrArg BitVec.toNat hfull)
    obtain ⟨w', hrest⟩ := ih (s := { s with hwait := w, tmr := some (v + 1#16), ifFlag := timerOverflows v })
      h0 hen hquiet rfl (by omega)
    exact ⟨w', agentSteps_cons.mpr ⟨_, hstep, hrest⟩⟩

/-- The start of a round of the playback served at once: `k` samples played, no request, the timer reloaded. -/
def RoundStart (h0 : List Event) (k : Nat) (s : State) : Prop :=
  PlaybackAt h0 k s ∧ s.fault = 0#3 ∧ s.ifFlag = false ∧ s.tmr = some s.params.reload

/-- A round plays entry `k` and leads to the start of the next (R85, R135). -/
theorem agentSteps_playRound {h0 : List Event} {k : Nat} {s : State} (hs : RoundStart h0 k s) (hk : k < Config.len) :
    ∃ t, agentSteps (playRound s.params) s = some t ∧ RoundStart h0 (k + 1) t ∧ t.params = s.params ∧ t.rom = s.rom ∧
      t.dutyLo = some (Memory.sample s.rom ⟨k, hk⟩) := by
  obtain ⟨⟨hle, hidx, _, htie, hgie, hplayed, hrun, _⟩, hfault, hf, htmr⟩ := hs
  have hen : s.en = true := hrun.trans (decide_eq_true hk)
  obtain ⟨n, hn⟩ : ∃ n, 65536 - s.params.reload.toNat = n + 1 :=
    Nat.exists_eq_add_of_le' (Nat.sub_pos_of_lt s.params.reload.isLt)
  obtain ⟨w, hticks⟩ := agentSteps_interval (n := n) hfault hen hf htmr (by omega)
  generalize hu : ({ s with hwait := w, tmr := some 0#16, ifFlag := true } : State) = u at hticks
  have hplay : PlaybackAt h0 k u := by
    rw [← hu]
    exact ⟨hle, hidx, rfl, htie, hgie, hplayed, hrun, fun h => absurd h hk.ne⟩
  have hpending : u.ifFlag = true := by rw [← hu]
  have he : u.enabled .sequencer = true := by
    rw [← hu]
    exact (vectorEnabledExactlyWhen _).mpr ⟨hfault, .inl ⟨rfl, htie, hgie⟩⟩
  have hserve := (agentStep_sequencer he).trans (hplay.execVector_eq hpending hk)
  refine ⟨_, ?_, ⟨hplay.of_service hk, ?_⟩, ?_⟩
  · rw [playRound, hn, agentSteps_append]
    exact ⟨u, hticks, agentSteps_singleton.mpr hserve⟩
  · subst hu
    simp [State.service_eq, hfault]
  · subst hu
    simp [State.service_eq]

/-- One more round of the same agents comes after the rounds before it. -/
theorem agentSteps_rounds_succ {as : List Agent} {n : Nat} {s t : State} :
    agentSteps (List.replicate (n + 1) as).flatten s = some t ↔
      ∃ u, agentSteps (List.replicate n as).flatten s = some u ∧ agentSteps as u = some t := by
  rw [List.replicate_succ', List.flatten_append, List.flatten_singleton, agentSteps_append]

/-- Rounds in a row play the table's entries one after another. -/
theorem agentSteps_playRounds {h0 : List Event} {s : State} (hs : RoundStart h0 0 s) {k : Nat} (hk : k ≤ Config.len) :
    ∃ t, agentSteps (List.replicate k (playRound s.params)).flatten s = some t ∧ RoundStart h0 k t ∧
      t.params = s.params ∧ t.rom = s.rom := by
  induction k with
  | zero => exact ⟨s, rfl, hs, rfl, rfl⟩
  | succ k ih =>
    obtain ⟨u, hu, hround, hparams, hrom⟩ := ih (Nat.le_of_succ_le hk)
    obtain ⟨t, ht, hround', hparams', hrom', _⟩ := agentSteps_playRound hround hk
    have hrun := agentSteps_rounds_succ.mpr ⟨u, hu, hparams ▸ ht⟩
    exact ⟨t, hrun, hround', hparams'.trans hparams, hrom'.trans hrom⟩

/-- Settles O51: the armed state starts the first of 158 rounds, the first 157 lead to the start of the last, and the last one
plays entry 157. -/
theorem servedAtOncePlaysTheWholeTable : Obligations.ServedAtOncePlaysTheWholeTable := by
  intro s hfault hen hf htie hgie hidx htmr
  have hstart : RoundStart s.hist 0 s :=
    ⟨⟨Nat.zero_le _, hidx, by simp [htmr], htie, hgie, by simp [tableUpTo], hen, nofun⟩, hfault, hf, htmr⟩
  obtain ⟨u, hu, hround, hparams, hrom⟩ := agentSteps_playRounds hstart (k := 157) (by decide)
  obtain ⟨t, ht, ⟨⟨_, hidx', _, _, _, hplayed, hen', _⟩, hfault', hf', htmr'⟩, hparams', hrom', hduty⟩ :=
    agentSteps_playRound hround (by decide)
  rw [hparams] at ht hparams'
  rw [hrom] at hduty hrom'
  rw [hrom'] at hplayed
  rw [hparams'] at htmr'
  exact ⟨t, agentSteps_rounds_succ.mpr ⟨u, hu, ht⟩, hplayed, hen', hf', hidx', htmr', hduty, hfault'⟩

end Sys2Proof.Safety
end

section
/-!
PROOFS. The host interface family (spec/41_host_interface.md): when the host steps (R90, R91), each host word and its effect
(R92–R105), and what no host word writes (R112).
-/

namespace Sys2Proof

/-! ### The words (R61, R62) -/

/-- An instruction's word is its code in bits 23:20 and its DATA below. -/
theorem encode_eq_or {i : Instr} {o : Opcode} {c d : OpWord} (ho : i.opcode = o)
    (hc : (opcodeBits o).setWidth 24 <<< 20 = c) (hd : i.data.setWidth 24 = d) : encode i = c ||| d := by
  rw [encode, packWord_or, ho, hc, hd]

/-- Leading zeros are lost to widening. -/
theorem setWidth_zero_append {k n m : Nat} (v : BitVec n) : (0#k ++ v).setWidth m = v.setWidth m := by
  simp only [BitVec.toNat_eq, BitVec.toNat_setWidth, BitVec.toNat_append, BitVec.toNat_ofNat, Nat.zero_mod,
    Nat.zero_shiftLeft, Nat.zero_or]

theorem setWidth_byteData (v : Byte) : (byteData v).setWidth 24 = v.setWidth 24 := setWidth_zero_append v

theorem setWidth_dutyData (hi : BitVec 2) (lo : Byte) : (dutyData hi lo).setWidth 24 = (hi ++ lo).setWidth 24 := by
  simp only [dutyData, BitVec.toNat_eq, BitVec.toNat_setWidth, BitVec.toNat_append, BitVec.toNat_ofNat, Nat.zero_mod,
    Nat.zero_shiftLeft, Nat.zero_or]

/-- A word of opcode 0 with a bit of DATA set is illegal: NOP has no operand (R66, R92). -/
theorem decode_nopWord {d : Word16} (hd : d ≠ 0#16) : decode .host (packWord 0x0#4 d) = .error .mustBeZero := by
  have hmask : mbzMask (formOf (opcodeOf 0x0#4)) = 0xFFFF#16 := rfl
  simp [decode, hmask, and_noneMask, hd]

end Sys2Proof

namespace Sys2Proof.Machine

open Sys2Proof.Safety

/-! ### The host's step (R90, R91) -/

/-- The host is enabled where FAULT = 0, its program goes on, no delay runs and STRICT_PRIORITY does not hold it. -/
theorem State.host_enabled_iff (s : State) :
    s.enabled .host = true ↔
      s.fault = 0#3 ∧ s.hpc < s.hprog.length ∧ s.hwait = 0#16 ∧
        (s.params.strictPriority = false ∨ s.interruptPending = false) := by
  simp [State.enabled, State.hostEnabled, State.unfaulted, and_assoc]

/-- A host word of an unfaulted state that ends faulted has not advanced HPC. -/
theorem exec_host_hpc_of_faulted {i : Instr} {s t : State} (hi : i.issuer = .host) (h0 : s.fault = 0#3)
    (h : exec i s = .next t) (hfault : t.fault ≠ 0#3) : t.hpc = s.hpc := by
  obtain ⟨_, hkeep, _⟩ | ⟨r, rfl⟩ := exec_host_cases hi h
  · exact absurd (hkeep.trans h0) hfault
  · rfl

/-- Settles O10: the enabling condition field by field; the enabled host performs the decoded word, which completes or raises
a fault. -/
theorem hostStepEnabledAndPerformed : Obligations.HostStepEnabledAndPerformed := by
  refine ⟨fun s => ?_, fun s w i he hw hd => ?_⟩
  · rw [State.host_enabled_iff, ← State.interruptPending_iff, Bool.not_eq_true]
  · obtain ⟨t, ht⟩ := exec_answers i s
    have hstep : agentStep .host s = .next t := (agentStep_host he hw hd).trans ht
    exact ⟨t, ht, hstep, agentStep_hpc hstep,
      exec_host_hpc_of_faulted (issuer_of_decode_host hd) (State.unfaulted_of_enabled he) ht⟩

/-- Settles O42: the enabled host fetches the word, and the word raises. -/
theorem illegalHostWordRaises : Obligations.IllegalHostWordRaises := by
  intro s w e he hw hd
  simp only [agentStep, State.fetch, he, if_true, hw, runWord, hd]
  rfl

/-! ### The register writes (R92–R100) -/

/-- Settles O22: a host step that writes nothing but HPC. -/
theorem nopEffect : Obligations.NopEffect :=
  ⟨by decide, fun _ => rfl, fun _ hd => decode_nopWord hd⟩

/-- A service of an index past the table sets F_OOB's bit, whatever wrote the index. -/
theorem fault_of_execVector_oob {s t : State} {i : Byte} (h : exec .vector s = .next t) (hf : s.ifFlag = true)
    (hidx : s.idx = some i) (hi : Config.len ≤ i.toNat) : t.fault = s.fault ||| 0b001#3 := by
  cases (execVector_oob hf hidx hi).symm.trans h
  rfl

/-- Settles O23: the index written is the one the service finds. -/
theorem wrIdxEffect : Obligations.WrIdxEffect := by
  refine ⟨fun v => encode_eq_or (o := .wrIdx) rfl (by decide) (setWidth_byteData v), fun _ _ => rfl,
    fun v s t u hv ht hf hu => ?_⟩
  cases ht
  exact fault_of_execVector_oob hu hf rfl hv

/-- Settles O24: the timer written is the one the next TICK counts up. -/
theorem wrTmrEffect : Obligations.WrTmrEffect := by
  refine ⟨fun v => encode_eq_or (o := .wrTmr) rfl (by decide) rfl, fun _ _ => rfl, fun s t u hen ht hu => ?_⟩
  cases ht
  cases (exec_tick_running (s := (s.setTmr 0xFFFF#16).advance) hen rfl).symm.trans hu
  rw [State.runningEdge_eq]
  exact ⟨Bool.or_true _, rfl⟩

/-- Settles O25: WR_EN writes EN alone, so a stopped TICK, a service and the two faults are those of the state before it. -/
theorem wrEnEffect : Obligations.WrEnEffect := by
  refine ⟨by decide, by decide, fun _ _ => rfl, fun s t u ht hu => ?_, fun s t u i hi hf hidx ht hu => ?_,
    fun s t u htmr ht hu => ?_, fun s t u hf hidx ht hu => ?_⟩
  all_goals cases ht
  · cases (exec_tick_stopped rfl).symm.trans hu
    rw [State.stoppedEdge_eq]
    exact ⟨rfl, rfl, rfl, rfl⟩
  · cases (execVector_service (s := (s.setEn false).advance) hf hidx hi).symm.trans hu
    rw [State.service_eq]
    exact ⟨samplesOf_append .., rfl⟩
  · cases (exec_tick_uninit (s := (s.setEn true).advance) rfl htmr).symm.trans hu
    rfl
  · exact fault_of_execVector_oob (s := (s.setEn true).advance) hu hf hidx (by decide)

/-- Settles O26: with TIE written, a pending request is enabled. -/
theorem wrTieEffect : Obligations.WrTieEffect := by
  refine ⟨by decide, by decide, fun _ _ => rfl, fun s t h0 hf hgie h => ?_⟩
  cases h
  exact (vectorEnabledExactlyWhen _).mpr ⟨h0, .inl ⟨hf, rfl, hgie⟩⟩

/-- With GIE = 0 and no spurious entries no VECTOR is enabled (R79, R97). -/
theorem State.sequencer_disabled_of_gie {s : State} (hgie : s.gie = false) (hsp : s.params.spuriousVectors = false) :
    s.enabled .sequencer = false :=
  State.sequencer_disabled (by simp [State.interruptPending, hgie]) hsp

/-- Only WR_GIE 1 sets GIE. -/
theorem exec_gie_clear {i : Instr} {s t : State} (hgie : s.gie = false) (hi : i ≠ .wrGie true) (h : exec i s = .next t) :
    t.gie = false := by
  obtain ⟨_, _, _, _, _, hwriter, _⟩ := eachRegisterHasItsWriters i s t h
  by_cases hkeep : t.gie = s.gie
  · exact hkeep.trans hgie
  · obtain ⟨b, rfl⟩ := hwriter hkeep
    obtain rfl : b = false := by simpa using hi
    cases h
    rfl

/-- No agent's step but the host's WR_GIE 1 sets GIE. -/
theorem agentStep_gie_clear {a : Agent} {s t : State} (hgie : s.gie = false)
    (hword : a = .host → NextWordIsNot (.wrGie true) s) (h : agentStep a s = .next t) : t.gie = false := by
  cases a with
  | timer => exact exec_gie_clear (i := .tick) hgie nofun (agentStep_timer_cases h).2
  | sequencer => exact exec_gie_clear (i := .vector) hgie nofun (agentStep_sequencer_cases h).2
  | host =>
    obtain ⟨_, w, hw, ⟨i, hd, _, hx⟩ | ⟨e, _, rfl⟩⟩ := agentStep_host_cases h
    · exact exec_gie_clear hgie (fun hi => hword rfl w hw (hi ▸ hd)) hx
    · exact hgie

/-- Settles O27: with GIE = 0 no VECTOR is enabled, so SEQUENCER has no step, and the steps of the others keep GIE = 0. -/
theorem wrGieEffect : Obligations.WrGieEffect := by
  refine ⟨by decide, by decide, fun _ _ => rfl, fun s t hsp h => ?_, fun a s t hgie hsp hword h => ?_⟩
  · cases h
    exact State.sequencer_disabled_of_gie rfl hsp
  · obtain ⟨hparams, _⟩ := agentStep_config h
    have hgie' := agentStep_gie_clear hgie hword h
    have hsp' : t.params.spuriousVectors = false := hparams ▸ hsp
    refine ⟨?_, hgie', hsp', State.sequencer_disabled_of_gie hgie' hsp'⟩
    rintro rfl
    obtain ⟨he, _⟩ := agentStep_sequencer_cases h
    rw [State.sequencer_disabled_of_gie hgie hsp] at he
    cases he

/-- Settles O29: the two parts are the DATA; 1024 is out of range and its bit is a must-be-zero one. -/
theorem wrDutyEffect : Obligations.WrDutyEffect := by
  refine ⟨fun hi lo => encode_eq_or (o := .wrDuty) rfl (by decide) (setWidth_dutyData hi lo), fun _ _ _ => rfl, ?_,
    by decide⟩
  obtain ⟨_, hrange⟩ := assemblerMakesTheEncodedWord
  exact hrange .wrDuty 1024 (by decide)

/-! ### The register reads (R101–R103) -/

/-- RD_IDX of an index that holds a value logs it. -/
theorem exec_rdIdx {s : State} {i : Byte} (h : s.idx = some i) :
    exec .rdIdx s = .next (s.log (.hostRead .rdIdx (i.setWidth 16))).advance := by
  simp only [exec, execRdIdx, h]
  rfl

theorem exec_rdIdx_uninit {s : State} (h : s.idx = none) : exec .rdIdx s = .next (s.raise .host .uninit 0) := by
  simp only [exec, execRdIdx, h]
  rfl

/-- RD_TMR of a timer that holds a value logs it. -/
theorem exec_rdTmr {s : State} {v : Word16} (h : s.tmr = some v) :
    exec .rdTmr s = .next (s.log (.hostRead .rdTmr v)).advance := by
  simp only [exec, execRdTmr, h]
  rfl

theorem exec_rdTmr_uninit {s : State} (h : s.tmr = none) : exec .rdTmr s = .next (s.raise .host .uninit 1) := by
  simp only [exec, execRdTmr, h]
  rfl

theorem exec_rdDuty_uninit {s : State} (h : s.duty = none) : exec .rdDuty s = .next (s.raise .host .uninit 7) := by
  simp only [exec, execRdDuty, h]
  rfl

/-- The 16-bit view of a duty has the value of its parts (R34). -/
theorem toNat_setWidth_dutyParts (hi : BitVec 2) (lo : Byte) :
    ((hi ++ lo).setWidth 16).toNat = hi.toNat * 256 + lo.toNat := by
  rw [BitVec.toNat_setWidth_of_le (by decide), toNat_dutyParts]

/-- Settles O31: the two cases of a host read of IDX. -/
theorem rdIdxEffect : Obligations.RdIdxEffect :=
  ⟨by decide, fun _ _ h => exec_rdIdx h, fun _ h => exec_rdIdx_uninit h⟩

/-- Settles O32: the two cases of a host read of TMR. -/
theorem rdTmrEffect : Obligations.RdTmrEffect :=
  ⟨by decide, fun _ _ h => exec_rdTmr h, fun _ h => exec_rdTmr_uninit h⟩

/-- Settles O33: the two cases of a host read of DUTY, which is ⊥ where either part is. -/
theorem rdDutyEffect : Obligations.RdDutyEffect :=
  ⟨by decide,
    fun _ hi lo hhi hlo => ⟨_, toNat_setWidth_dutyParts hi lo, exec_rdDuty (State.duty_eq_some hhi hlo)⟩,
    fun _ h => exec_rdDuty_uninit (State.duty_eq_none h)⟩

/-- Settles O30: DUTY_HI keeps its ⊥, with which DUTY reads as ⊥. -/
theorem wrDutylEffect : Obligations.WrDutylEffect := by
  refine ⟨fun lo => encode_eq_or (o := .wrDutyl) rfl (by decide) (setWidth_byteData lo), fun _ _ => rfl,
    fun lo s t hhi h => ?_⟩
  cases h
  exact exec_rdDuty_uninit (State.duty_eq_none (.inl hhi))

/-! ### The delay (R76, R105) -/

/-- TICK does not fault: the timer is stopped or holds a value. -/
def TickCompletes (s : State) : Prop :=
  s.en = false ∨ s.tmr ≠ none

theorem toNat_countDown (v : Word16) : (if v = 0#16 then 0#16 else v - 1#16).toNat = v.toNat - 1 := by
  split <;> bv_omega

/-- A TICK that completes takes one from a running delay, and the next TICK completes too. -/
theorem exec_tick_hwait {s : State} (hs : TickCompletes s) :
    ∃ t, exec .tick s = .next t ∧ TickCompletes t ∧ t.hwait.toNat = s.hwait.toNat - 1 := by
  cases hen : s.en with
  | false =>
    refine ⟨_, exec_tick_stopped hen, ?_⟩
    rw [State.stoppedEdge_eq]
    exact ⟨.inl hen, toNat_countDown s.hwait⟩
  | true =>
    obtain ⟨v, htmr⟩ := Option.ne_none_iff_exists'.mp (hs.resolve_left (by simp [hen]))
    refine ⟨_, exec_tick_running hen htmr, ?_⟩
    rw [State.runningEdge_eq]
    exact ⟨.inr nofun, toNat_countDown s.hwait⟩

/-- TICKs that complete count a delay down. -/
theorem ticks_hwait {s : State} (hs : TickCompletes s) (k : Nat) :
    ∃ t, ticks k s = some t ∧ t.hwait.toNat = s.hwait.toNat - k := by
  induction k generalizing s with
  | zero => exact ⟨s, rfl, rfl⟩
  | succ k ih =>
    obtain ⟨u, hu, hs', hwait⟩ := exec_tick_hwait hs
    obtain ⟨t, ht, hwait'⟩ := ih hs'
    exact ⟨t, (ticks_succ k hu).trans ht, by omega⟩

/-- Settles O35: a running delay is what the host's enabling asks for and VECTOR's does not; TICKs count it down. -/
theorem dlyHoldsTheHostForItsTicks : Obligations.DlyHoldsTheHostForItsTicks := by
  refine ⟨fun n => encode_eq_or (o := .dly) rfl (by decide) rfl, fun _ _ => rfl, fun s hwait => ?_, fun _ _ => rfl,
    fun s k hs _ => ticks_hwait hs k⟩
  rw [← Bool.not_eq_true, State.host_enabled_iff]
  rintro ⟨_, _, hzero, _⟩
  exact hwait hzero

/-! ### What the host cannot write (R112) -/

/-- An instruction that changes IF is a TICK that sets it or a VECTOR that clears it. -/
theorem exec_ifFlag_writer {i : Instr} {s t : State} (h : exec i s = .next t) (hne : t.ifFlag ≠ s.ifFlag) :
    (i = .tick ∧ t.ifFlag = true) ∨ (i = .vector ∧ t.ifFlag = false) := by
  obtain ⟨_, _, _, hwriter, _⟩ := eachRegisterHasItsWriters i s t h
  exact hwriter hne

/-- No instruction changes a ROM entry (R47). -/
theorem exec_rom_read {i : Instr} {s t : State} (h : exec i s = .next t) (a : Nat) :
    Memory.read t.rom a = Memory.read s.rom a := by
  obtain ⟨_, _, _, _, _, _, _, _, _, _, _, _, _, _, _, hrom⟩ := eachRegisterHasItsWriters i s t h
  exact hrom a

/-- Settles O38: a host instruction completes or raises F_UNINIT; the two writers of IF. -/
theorem whatTheHostCannotWrite : Obligations.WhatTheHostCannotWrite := by
  refine ⟨fun i s t hi h => ?_, fun i s t h => exec_rom_read h, fun i s t h hs ht => ?_, fun i s t h hs ht => ?_⟩
  · have hrom := exec_rom_read h
    obtain ⟨hpc, hfault, hf, hlat, _⟩ | ⟨r, rfl⟩ := exec_host_cases hi h
    · exact ⟨hf, hlat, hrom, .inl ⟨hfault, hpc⟩⟩
    · exact ⟨rfl, rfl, hrom, .inr ⟨rfl, regNumber r, rfl, rfl⟩⟩
  · obtain ⟨_, hset⟩ | ⟨hi, _⟩ := exec_ifFlag_writer h (by simp [hs, ht])
    · simp [ht] at hset
    · exact hi
  · obtain ⟨hi, _⟩ | ⟨_, hclear⟩ := exec_ifFlag_writer h (by simp [hs, ht])
    · exact hi
    · simp [ht] at hclear

end Sys2Proof.Machine
end

section
/-!
PROOFS. The exceptions family (spec/60_exceptions.md): `raise` and the steps that take it (R116–R119, R127), and the latency
bound (R126).
-/

namespace Sys2Proof.Machine

open Sys2Proof.Safety

/-! ### The latency bound (R126) -/

/-- The edge of an enabled TICK keeps the count within the bound: at the bound, a pending and enabled request disables TICK. -/
theorem lat_count_le {s : State} {l : Nat} (hs : LatencyBounded s) (he : s.enabled .timer = true)
    (hl : s.params.maxLatency = some l) : (if s.interruptPending then s.lat + 1 else s.lat) ≤ l := by
  split
  case isTrue hp =>
    obtain ⟨hf, htie, hgie⟩ := s.interruptPending_iff.mp hp
    obtain ⟨_, hopen⟩ := (tickEnabledExactlyWhen s).mp he
    exact Nat.succ_le_of_lt (not_le.mp fun h => hopen ⟨l, hl, hf, htie, hgie, h⟩)
  case isFalse => exact hs l hl

theorem execTick_latencyBounded {s t : State} (hs : LatencyBounded s) (he : s.enabled .timer = true)
    (h : execTick s = .next t) : LatencyBounded t := by
  obtain ⟨_, _, rfl⟩ | ⟨v, _, _, rfl⟩ | ⟨_, rfl⟩ := execTick_cases h
  · exact hs
  · rw [State.runningEdge_eq]
    exact fun l hl => lat_count_le hs he hl
  · rw [State.stoppedEdge_eq]
    exact fun l hl => lat_count_le hs he hl

/-- A service ends with LAT = 0; every other VECTOR leaves LAT as it was. -/
theorem execVector_latencyBounded {s t : State} (hs : LatencyBounded s) (h : execVector s = .next t) :
    LatencyBounded t := by
  obtain ⟨_, rfl⟩ | ⟨_, _, rfl⟩ | ⟨_, _, _, _, rfl⟩ | ⟨_, _, _, _, rfl⟩ := execVector_cases h
  · exact hs
  · exact hs
  · exact hs
  · rw [State.service_eq]
    exact fun l _ => Nat.zero_le l

/-- No host step writes LAT, an illegal word's included (R112). -/
theorem agentStep_host_lat {s t : State} (h : agentStep .host s = .next t) : t.lat = s.lat := by
  obtain ⟨_, _, _, ⟨i, _, hi, hx⟩ | ⟨_, _, rfl⟩⟩ := agentStep_host_cases h
  · obtain ⟨hhost, _⟩ := whatTheHostCannotWrite
    obtain ⟨_, hlat, _⟩ := hhost i s t hi hx
    exact hlat
  · rfl

theorem agentStep_latencyBounded {a : Agent} {s t : State} (hs : LatencyBounded s) (h : agentStep a s = .next t) :
    LatencyBounded t := by
  cases a with
  | timer =>
    obtain ⟨he, hx⟩ := agentStep_timer_cases h
    exact execTick_latencyBounded hs he hx
  | sequencer => exact execVector_latencyBounded hs (agentStep_sequencer_cases h).2
  | host =>
    obtain ⟨hparams, _⟩ := agentStep_config h
    unfold LatencyBounded
    rwa [hparams, agentStep_host_lat h]

/-- Settles O48: the turn writes neither LAT nor the parameters, and each agent's step keeps the bound. -/
theorem latencyBoundInvariant : Obligations.LatencyBoundInvariant := by
  intro s t hs h
  obtain ⟨a, _, _, ha⟩ := step_cases h
  exact agentStep_latencyBounded (s := s.takeTurn) hs ha

/-! ### `raise` and the states it leaves (R116, R118) -/

/-- From FAULT = 0 a fault leaves its own bit alone in FAULT (R127). -/
theorem State.raise_of_unfaulted {s : State} (h0 : s.fault = 0#3) (a : Agent) (c : FaultCode) (n : Nat) :
    s.raise a c n = { s with fault := faultBit c, hist := s.hist ++ [.fault a c n] } := by
  simp only [State.raise, h0, BitVec.zero_or]

theorem State.raise_fault_of_unfaulted {s : State} (h0 : s.fault = 0#3) (a : Agent) (c : FaultCode) (n : Nat) :
    (s.raise a c n).fault = faultBit c := by
  rw [State.raise_of_unfaulted h0]

theorem enabled_of_agentStep {a : Agent} {s t : State} (h : agentStep a s = .next t) : s.enabled a = true := by
  obtain ⟨w, hw, _⟩ := agentStep_cases h
  exact (State.fetch_cases hw).1

theorem unfaulted_of_agentStep {a : Agent} {s t : State} (h : agentStep a s = .next t) : s.fault = 0#3 :=
  State.unfaulted_of_enabled (enabled_of_agentStep h)

/-- Settles O41: the three bits are 1 shifted by the codes 0, 1 and 2; an enabled agent, and so an agent that steps, is in an
unfaulted state. -/
theorem raiseWritesOnlyFaultAndHistory : Obligations.RaiseWritesOnlyFaultAndHistory := by
  refine ⟨fun s a n => ⟨rfl, rfl, rfl⟩, fun s a hfault => ⟨?_, fun t h => hfault (unfaulted_of_agentStep h)⟩⟩
  exact Bool.eq_false_iff.mpr fun he => hfault (State.unfaulted_of_enabled he)

/-! ### Which steps fault (R116, R117, R127) -/

/-- A TICK changes FAULT only where the timer runs without a value. -/
theorem execTick_fault {s t : State} (h : execTick s = .next t) (hne : t.fault ≠ s.fault) :
    s.en = true ∧ s.tmr = none ∧ t = s.raise .timer .uninit 1 := by
  obtain hraise | ⟨v, _, _, rfl⟩ | ⟨_, rfl⟩ := execTick_cases h
  · exact hraise
  · exact absurd (by rw [State.runningEdge_eq]) hne
  · exact absurd (by rw [State.stoppedEdge_eq]) hne

/-- A VECTOR changes FAULT only where it is to serve an index that is ⊥ or past the table. -/
theorem execVector_fault {s t : State} (h : execVector s = .next t) (hne : t.fault ≠ s.fault) :
    s.ifFlag = true ∧
      ((s.idx = none ∧ t = s.raise .sequencer .uninit 0) ∨
        ∃ i, s.idx = some i ∧ Config.len ≤ i.toNat ∧ t = s.raise .sequencer .oob i.toNat) := by
  obtain ⟨_, rfl⟩ | ⟨hf, huninit⟩ | ⟨i, hf, hoob⟩ | ⟨_, _, _, _, rfl⟩ := execVector_cases h
  · exact absurd rfl hne
  · exact ⟨hf, .inl huninit⟩
  · exact ⟨hf, .inr ⟨i, hoob⟩⟩
  · exact absurd (by rw [State.service_eq]) hne

theorem hostRead_fault {op : Opcode} {r : Reg} {v : Option Word16} {s t : State} (h : hostRead op r v s = .next t)
    (hne : t.fault ≠ s.fault) : v = none ∧ t = s.raise .host .uninit (regNumber r) := by
  obtain hraise | ⟨w, _, rfl⟩ := hostRead_cases h
  · exact hraise
  · exact absurd rfl hne

/-- A host instruction changes FAULT only where it reads a register that holds no value. -/
theorem exec_host_fault {i : Instr} {s t : State} (hi : i.issuer = .host) (h : exec i s = .next t)
    (hne : t.fault ≠ s.fault) :
    ((i = .rdIdx ∧ s.idx = none) ∨ (i = .rdTmr ∧ s.tmr = none) ∨ (i = .rdDuty ∧ s.duty = none)) ∧
      ∃ r, t = s.raise .host .uninit (regNumber r) := by
  obtain ⟨_, _, _, _, _, _, _, _, _, _, _, _, hwriter, _⟩ := eachRegisterHasItsWriters i s t h
  obtain rfl | rfl | rfl | rfl | rfl := hwriter hne
  · cases hi
  · cases hi
  · obtain ⟨hnone, ht⟩ := hostRead_fault h hne
    exact ⟨.inl ⟨rfl, Option.map_eq_none_iff.mp hnone⟩, .idx, ht⟩
  · obtain ⟨hnone, ht⟩ := hostRead_fault h hne
    exact ⟨.inr (.inl ⟨rfl, hnone⟩), .tmr, ht⟩
  · obtain ⟨hnone, ht⟩ := hostRead_fault h hne
    exact ⟨.inr (.inr ⟨rfl, Option.map_eq_none_iff.mp hnone⟩), .duty, ht⟩

/-- Settles O43: a step starts from FAULT = 0, so one that ends faulted changed FAULT, and each agent's causes are those of
its instruction. -/
theorem onlyTheseStepsFault : Obligations.OnlyTheseStepsFault := by
  intro a s t h hfault
  have h0 := unfaulted_of_agentStep h
  have hne : t.fault ≠ s.fault := h0 ▸ hfault
  cases a with
  | timer =>
    obtain ⟨hen, htmr, rfl⟩ := execTick_fault (agentStep_timer_cases h).2 hne
    exact .inl ⟨rfl, State.raise_fault_of_unfaulted h0 .., hen, htmr⟩
  | sequencer =>
    obtain ⟨hf, ⟨hidx, rfl⟩ | ⟨i, hidx, hi, rfl⟩⟩ := execVector_fault (agentStep_sequencer_cases h).2 hne
    · exact .inr (.inl ⟨rfl, hf, State.raise_fault_of_unfaulted h0 .., hidx⟩)
    · exact .inr (.inr (.inl ⟨rfl, hf, State.raise_fault_of_unfaulted h0 .., i, hidx, hi⟩))
  | host =>
    obtain ⟨_, w, hw, ⟨i, hd, hi, hx⟩ | ⟨e, hd, rfl⟩⟩ := agentStep_host_cases h
    · obtain ⟨hcause, r, rfl⟩ := exec_host_fault hi hx hne
      exact .inr (.inr (.inr (.inr ⟨rfl, State.raise_fault_of_unfaulted h0 .., w, i, hw, hd, hcause⟩)))
    · exact .inr (.inr (.inr (.inl ⟨rfl, State.raise_fault_of_unfaulted h0 .., w, e, hw, hd⟩)))

/-! ### Faults are precise and sticky (R119) -/

/-- An agent's step that changes FAULT is a `raise` by that agent and nothing else. -/
theorem agentStep_fault {a : Agent} {s t : State} (h : agentStep a s = .next t) (hne : t.fault ≠ s.fault) :
    ∃ c n, t = s.raise a c n := by
  obtain ⟨w, _, hw⟩ := agentStep_cases h
  obtain ⟨i, hd, hx⟩ | ⟨e, _, ht⟩ := runWord_cases hw
  · obtain ⟨_, _, hkeep, _⟩ | ⟨c, n, ht⟩ := exec_record hx
    · exact absurd hkeep hne
    · exact ⟨c, n, issuer_of_decode hd ▸ ht⟩
  · exact ⟨.illegal, w.toNat, ht⟩

theorem exec_fault_sticky {i : Instr} {s t : State} (h : exec i s = .next t) : s.fault &&& t.fault = s.fault := by
  obtain ⟨_, _, hkeep, _⟩ | ⟨c, n, rfl⟩ := exec_record h
  · rw [hkeep, BitVec.and_self]
  · ext k
    simpa using Or.inl

/-- Settles O44: a step that ends faulted is a `raise` from FAULT = 0, and no agent steps in the state it leaves. -/
theorem faultsArePrecise : Obligations.FaultsArePrecise := by
  refine ⟨fun a s t h hfault => ⟨?_, fun b u hu => hfault (unfaulted_of_agentStep hu)⟩, fun i s t h => exec_fault_sticky h⟩
  have h0 := unfaulted_of_agentStep h
  obtain ⟨c, n, rfl⟩ := agentStep_fault h (h0 ▸ hfault)
  exact ⟨c, n, State.raise_of_unfaulted h0 a c n⟩

end Sys2Proof.Machine
end

section
/-!
PROOFS. The reset-and-hazards family (spec/70_reset_and_hazards.md): final states (R158), and the playback of every weakly fair
run (R160, R162).
-/

namespace Sys2Proof.Safety

open Sys2Proof.Machine

/-! ### Final states (R158) -/

/-- A final state is a resting one at the end of the host program. -/
theorem final_iff_atRest (s : State) : Final s ↔ AtRest s ∧ s.hpc = s.hprog.length :=
  ⟨fun ⟨hfault, hpc, hwait, hen, hf⟩ => ⟨⟨hfault, hwait, hen, hf⟩, hpc⟩,
    fun ⟨⟨hfault, hwait, hen, hf⟩, hpc⟩ => ⟨hfault, hpc, hwait, hen, hf⟩⟩

/-- A TICK of a resting machine changes nothing. -/
theorem exec_tick_of_atRest {s : State} (hs : AtRest s) : exec .tick s = .next s := by
  obtain ⟨t, ht⟩ := exec_answers .tick s
  have he : s.enabled .timer = true := hs.enabled nofun nofun
  have hsame : t = s := hs.eq_of_agentStep (a := .timer) nofun ((agentStep_timer he).trans ht)
  rwa [hsame] at ht

/-- At the end of its program the host has no step. -/
theorem host_disabled_of_end {s : State} (hpc : s.hpc = s.hprog.length) : s.enabled .host = false := by
  refine Bool.eq_false_iff.mpr fun he => ?_
  obtain ⟨_, hlt, _⟩ := s.host_enabled_iff.mp he
  exact hlt.ne hpc

/-- Settles O54: a final state is at rest, where TIMER and SEQUENCER change nothing, and its program is over, so that the host
has no step. -/
theorem finalStatesAreStable : Obligations.FinalStatesAreStable := by
  refine ⟨fun s => Iff.rfl, fun s hs => ?_, fun s t a hs h => ?_⟩
  · obtain ⟨hrest, hpc⟩ := (final_iff_atRest s).mp hs
    have ⟨_, _, _, hf⟩ := hrest
    exact ⟨exec_tick_of_atRest hrest, execVector_idle hf, host_disabled_of_end hpc⟩
  · obtain ⟨hrest, hpc⟩ := (final_iff_atRest s).mp hs
    refine hrest.eq_of_agentStep ?_ h
    rintro rfl
    exact absurd (enabled_of_agentStep h) (by simp [host_disabled_of_end hpc])

/-! ### Runs without end (R160) -/

section Runs

variable {st : Nat → State} {ag : Nat → Agent}

theorem IsRun.unfaulted (hrun : IsRun st ag) (n : Nat) : (st n).fault = 0#3 :=
  unfaulted_of_agentStep (hrun n)

/-- The table and the parameters are those of the run's start all along. -/
theorem IsRun.config (hrun : IsRun st ag) (n : Nat) : (st n).rom = (st 0).rom ∧ (st n).params = (st 0).params := by
  induction n with
  | zero => exact ⟨rfl, rfl⟩
  | succ n ih =>
    obtain ⟨hparams, _, hrom, _⟩ := agentStep_config (hrun n)
    exact ⟨hrom.trans ih.1, hparams.trans ih.2⟩

/-- The rule of weak fairness: `P` leads to `Q` where agent `a` is enabled all the while `P` holds, and each step from `P`
either reaches `Q` or is another agent's and keeps `P`. -/
theorem WeaklyFair.leadsTo {P Q : Nat → Prop} {n : Nat} (hfair : WeaklyFair st ag) (a : Agent) (hn : P n)
    (henabled : ∀ m, P m → (st m).enabled a = true) (hstep : ∀ m, P m → Q (m + 1) ∨ (ag m ≠ a ∧ P (m + 1))) :
    ∃ m, Q m := by
  by_contra hnever
  have hstays (m : Nat) (hm : P m) : ag m ≠ a ∧ P (m + 1) := (hstep m hm).resolve_left fun h => hnever ⟨_, h⟩
  have halways : ∀ m, n ≤ m → P m := Nat.le_induction hn fun m _ hm => (hstays m hm).2
  obtain ⟨m, hm, ha⟩ := hfair a n fun m hm => henabled m (halways m hm)
  exact (hstays m (halways m hm)).1 ha

/-! ### A playback in a run (R162) -/

/-- A weakly fair run in which no host word writes IDX, TMR, EN, TIE or GIE while the timer has not stopped. -/
structure FairPlayback (st : Nat → State) (ag : Nat → Agent) : Prop where
  run : IsRun st ag
  fair : WeaklyFair st ag
  quiet : ∀ n, (∀ m, m ≤ n → (st m).en = true) → ag n = .host → HostLeavesPlayback (st n)

/-- After `n` steps, with the timer never stopped, the run has played the first `k` entries and no more. -/
def Awaits (st : Nat → State) (k n : Nat) : Prop :=
  (∀ m, m ≤ n → (st m).en = true) ∧ PlaybackAt (st 0).hist k (st n)

/-- The timer holds `v` meanwhile, and `b` says whether a request is pending. -/
def AwaitsAt (st : Nat → State) (k : Nat) (v : Word16) (b : Bool) (n : Nat) : Prop :=
  Awaits st k n ∧ (st n).tmr = some v ∧ (st n).ifFlag = b

/-- A request is pending meanwhile. -/
def AwaitsPending (st : Nat → State) (k n : Nat) : Prop :=
  Awaits st k n ∧ (st n).ifFlag = true

/-- The run's step `n` was the service of entry `k`. -/
def Served (st : Nat → State) (k : Fin Config.len) (n : Nat) : Prop :=
  (∀ m, m < n → (st m).en = true) ∧ PlaybackAt (st 0).hist (k.val + 1) (st n) ∧
    (st n).dutyLo = some (Memory.sample (st n).rom k)

variable {k n : Nat}

/-- The timer runs only while entries are left to play. -/
theorem Awaits.lt_len (hs : Awaits st k n) : k < Config.len := by
  obtain ⟨hen, _, _, _, _, _, _, hrun, _⟩ := hs
  exact of_decide_eq_true (hrun.symm.trans (hen n le_rfl))

/-- A step that plays nothing leaves the timer running. -/
theorem Awaits.succ (hs : Awaits st k n) (h : PlaybackAt (st 0).hist k (st (n + 1))) : Awaits st k (n + 1) := by
  have ⟨_, _, _, _, _, _, hrun, _⟩ := h
  refine ⟨fun m hm => ?_, h⟩
  obtain hm | rfl := Nat.le_succ_iff.mp hm
  · exact hs.1 m hm
  · exact hrun.trans (decide_eq_true hs.lt_len)

/-- With entries left to play after its service, the run awaits the next. -/
theorem Served.awaits {k : Fin Config.len} (hs : Served st k n) (hk : k.val + 1 < Config.len) : Awaits st (k.val + 1) n := by
  obtain ⟨hen, hplay, _⟩ := hs
  have ⟨_, _, _, _, _, _, hrun, _⟩ := hplay
  refine ⟨fun m hm => ?_, hplay⟩
  obtain hm | rfl := hm.lt_or_eq
  · exact hen m hm
  · exact hrun.trans (decide_eq_true hk)

/-- Meanwhile a TICK counts: TMR goes on by one, and its overflow makes a request. -/
theorem Awaits.of_timer (hs : Awaits st k n) (h : agentStep .timer (st n) = .next (st (n + 1))) :
    ∃ v, (st n).tmr = some v ∧ AwaitsAt st k (v + 1#16) ((st n).ifFlag || timerOverflows v) (n + 1) := by
  have hx := (agentStep_timer_cases h).2
  have hnext := hs.succ (hs.2.of_execTick hx)
  obtain ⟨hen, _, _, htmr, _⟩ := hs
  obtain ⟨_, hnone, _⟩ | ⟨v, _, hv, ht⟩ | ⟨hstopped, _⟩ := execTick_cases hx
  · simp [hnone] at htmr
  · rw [State.runningEdge_eq] at ht
    exact ⟨v, hv, hnext, by rw [ht], by rw [ht]⟩
  · exact absurd (hen n le_rfl) (by simp [hstopped])

/-- Meanwhile a host step leaves the playback as it was. -/
theorem Awaits.of_host (hr : FairPlayback st ag) (hs : Awaits st k n) (ha : ag n = .host) :
    Awaits st k (n + 1) ∧ (st (n + 1)).tmr = (st n).tmr ∧ (st (n + 1)).ifFlag = (st n).ifFlag := by
  have hsame : SamePlayback (st n) (st (n + 1)) := samePlayback_host (hr.quiet n hs.1 ha) (ha ▸ hr.run n)
  exact ⟨hs.succ (hs.2.of_same hsame), hsame.tmr, hsame.ifFlag⟩

/-- Without a request TICK counts, and every other step leaves the playback and the timer as they were. -/
theorem AwaitsAt.step {v : Word16} (hr : FairPlayback st ag) (hs : AwaitsAt st k v false n) :
    AwaitsAt st k (v + 1#16) (timerOverflows v) (n + 1) ∨ (ag n ≠ .timer ∧ AwaitsAt st k v false (n + 1)) := by
  have h := hr.run n
  obtain ⟨hwait, htmr, hf⟩ := hs
  cases ha : ag n with
  | timer =>
    obtain ⟨w, hw, hnext⟩ := hwait.of_timer (ha ▸ h)
    obtain rfl : v = w := Option.some.inj (htmr.symm.trans hw)
    rw [hf, Bool.false_or] at hnext
    exact .inl hnext
  | sequencer =>
    rw [ha] at h
    obtain ⟨_, hx⟩ := agentStep_sequencer_cases h
    have hsame : st n = st (n + 1) := Host.Outcome.next.inj ((execVector_idle hf).symm.trans hx)
    exact .inr ⟨nofun, hwait.succ (hsame ▸ hwait.2), hsame ▸ htmr, hsame ▸ hf⟩
  | host =>
    obtain ⟨hnext, htmr', hf'⟩ := hwait.of_host hr ha
    exact .inr ⟨nofun, hnext, htmr'.trans htmr, hf'.trans hf⟩

/-- A pending request stays until VECTOR serves the entry awaited. -/
theorem AwaitsPending.step (hr : FairPlayback st ag) (hk : k < Config.len) (hs : AwaitsPending st k n) :
    Served st ⟨k, hk⟩ (n + 1) ∨ (ag n ≠ .sequencer ∧ AwaitsPending st k (n + 1)) := by
  have h := hr.run n
  obtain ⟨hwait, hf⟩ := hs
  cases ha : ag n with
  | timer =>
    obtain ⟨v, _, hnext, _, hf'⟩ := hwait.of_timer (ha ▸ h)
    rw [hf, Bool.true_or] at hf'
    exact .inr ⟨nofun, hnext, hf'⟩
  | sequencer =>
    rw [ha] at h
    obtain ⟨hen, hplay⟩ := hwait
    obtain ⟨_, hx⟩ := agentStep_sequencer_cases h
    have hserve : (st n).service _ _ = st (n + 1) :=
      Host.Outcome.next.inj ((hplay.execVector_eq hf hk).symm.trans hx)
    refine .inl ⟨fun m hm => hen m (Nat.lt_succ_iff.mp hm), hserve ▸ hplay.of_service hk, ?_⟩
    rw [← hserve, State.service_eq]
  | host =>
    obtain ⟨hnext, _, hf'⟩ := hwait.of_host hr ha
    exact .inr ⟨nofun, hnext, hf'.trans hf⟩

/-- Without a request TICK is enabled, so fairness makes the timer count. -/
theorem AwaitsAt.exists_counted {v : Word16} (hr : FairPlayback st ag) (hs : AwaitsAt st k v false n) :
    ∃ m, AwaitsAt st k (v + 1#16) (timerOverflows v) m :=
  hr.fair.leadsTo .timer hs (fun m ⟨_, _, hf⟩ => State.timer_enabled_of_idle (hr.run.unfaulted m) hf) fun _ hm =>
    hm.step hr

/-- So the timer counts up to its overflow, which makes a request. -/
theorem AwaitsAt.exists_pending {d : Nat} {v : Word16} (hr : FairPlayback st ag) (hs : AwaitsAt st k v false n)
    (hd : v.toNat + d = 65535) : ∃ m, AwaitsPending st k m := by
  induction d generalizing v n with
  | zero =>
    obtain rfl : v = 0xFFFF#16 := BitVec.toNat_inj.mp hd
    obtain ⟨m, hwait, _, hf⟩ := hs.exists_counted hr
    exact ⟨m, hwait, hf⟩
  | succ d ih =>
    obtain ⟨m, hcounted⟩ := hs.exists_counted hr
    have hlt : v.toNat < 65535 := by omega
    have hnext : (v + 1#16).toNat = v.toNat + 1 := BitVec.toNat_add_of_lt (Nat.succ_lt_succ hlt)
    have hquiet : timerOverflows v = false := decide_eq_false fun hfull => hlt.ne (congrArg BitVec.toNat hfull)
    exact ih (hquiet ▸ hcounted) (by omega)

/-- A pending request enables VECTOR, so fairness makes it served. -/
theorem AwaitsPending.exists_served (hr : FairPlayback st ag) (hk : k < Config.len) (hs : AwaitsPending st k n) :
    ∃ m, Served st ⟨k, hk⟩ m := by
  refine hr.fair.leadsTo .sequencer hs (fun m hm => ?_) fun _ hm => hm.step hr hk
  obtain ⟨⟨_, _, _, _, htie, hgie, _⟩, hf⟩ := hm
  exact (vectorEnabledExactlyWhen (st m)).mpr ⟨hr.run.unfaulted m, .inl ⟨hf, htie, hgie⟩⟩

/-- The entry awaited is served, whether its request is pending yet or not. -/
theorem Awaits.exists_served (hr : FairPlayback st ag) (hk : k < Config.len) (hs : Awaits st k n) :
    ∃ m, Served st ⟨k, hk⟩ m := by
  obtain ⟨m, hpending⟩ : ∃ m, AwaitsPending st k m := by
    cases hf : (st n).ifFlag with
    | true => exact ⟨n, hs, hf⟩
    | false =>
      have ⟨_, _, _, htmr, _⟩ := hs
      obtain ⟨v, hv⟩ := Option.isSome_iff_exists.mp htmr
      exact AwaitsAt.exists_pending hr ⟨hs, hv, hf⟩ (Nat.add_sub_of_le (Nat.lt_succ_iff.mp v.isLt))
  exact hpending.exists_served hr hk

/-- The entries are served one after another. -/
theorem FairPlayback.exists_served (hr : FairPlayback st ag) (hs : Awaits st 0 0) (hk : k < Config.len) :
    ∃ n, Served st ⟨k, hk⟩ n := by
  induction k with
  | zero => exact hs.exists_served hr hk
  | succ k ih =>
    obtain ⟨n, hn⟩ := ih (Nat.lt_of_succ_lt hk)
    exact (hn.awaits hk).exists_served hr hk

end Runs

/-- Settles O52: the armed state awaits entry 0, so entry 157 is served in the end, and its service leaves the machine as
R162 says. -/
theorem fairRunPlaysTheWholeTable : Obligations.FairRunPlaysTheWholeTable := by
  intro st ag hrun hfair hen hf htie hgie hidx htmr hquiet
  have hstart : Awaits st 0 0 :=
    ⟨fun m hm => Nat.le_zero.mp hm ▸ hen, Nat.zero_le _, hidx, by simp [htmr], htie, hgie, by simp [tableUpTo], hen, nofun⟩
  obtain ⟨n, _, ⟨_, hidx', _, _, _, hplayed, hen', hend⟩, hduty⟩ :=
    FairPlayback.exists_served ⟨hrun, hfair, hquiet⟩ hstart (k := 157) (by decide)
  obtain ⟨hf', htmr'⟩ := hend rfl
  obtain ⟨hrom, hparams⟩ := hrun.config n
  rw [hrom] at hplayed hduty
  rw [hparams] at htmr'
  exact ⟨n, hplayed, hen', hf', hidx', htmr', hduty⟩

end Sys2Proof.Safety
end
